-- ==== Sys2Proof/Word.lean ====
section
/-!
DEFINITION. The word types of the machine (00_scope.md R5, R6; 30_encoding.md R61).
All values are unsigned; bit 0 is the least significant bit.
-/

namespace Sys2Proof

/-- A general register, a memory cell, a timer or the immediate `NN`. -/
abbrev Byte := BitVec 8

/-- The program counter, the index register, a stack entry or an instruction word. -/
abbrev Word := BitVec 16

/-- One of the four 4-bit fields of an instruction word: a register index `X` or `Y`, or `N`. -/
abbrev Nibble := BitVec 4

/-- The 12-bit immediate `NNN`. -/
abbrev Addr12 := BitVec 12

end Sys2Proof
end

