-- ==== Sys2Proof/Config.lean ====
section
/-!
DEFINITION. What is fixed for a machine (00_scope.md R5) and the one value the spec leaves free
(43_random_draw.md R120). The default configuration is in Machine/Defaults.lean.
-/

namespace Sys2Proof

/-- `FONT[0..79]`: 16 glyphs of 5 bytes (20_memory.md R44). -/
abbrev Font := Vector Byte 80

/-- The configurable parameters of 00_scope.md R5. "No instruction and no host event changes
them" (10_state.md R21). -/
structure Config where
  /-- `FONT`: the 80 bytes at 0x050..0x09F after reset. -/
  font : Font
  /-- `SHIFT_SOURCE_VY`: SHR and SHL shift `V[Y]` (true) or `V[X]` (false). -/
  shiftSourceVy : Bool
  /-- `LOADSTORE_ADVANCES_I`: LD [I],Vx and LD Vx,[I] add `X + 1` to `I`. -/
  loadStoreAdvancesI : Bool
  /-- `JUMP_OFFSET_VX`: JP V0 adds `V[X]` (true) or `V[0]` (false). -/
  jumpOffsetVx : Bool
  /-- `DRAW_WRAP`: DRW reduces pixel coordinates (true) or drops pixels outside the grid. -/
  drawWrap : Bool
  deriving DecidableEq, Repr

/-- FREE VALUE (log entry 5): the byte the hardware produces at its `k`-th execution of RND.
It has no definition, so a claim that mentions it holds for every sequence of bytes
(43_random_draw.md R120). -/
opaque Config.drawByte : Nat → Byte

end Sys2Proof
end

