-- ==== Sys2Proof/Machine/Defaults.lean ====
section
/-!
DEFINITION. The default configuration (00_scope.md R5) and the standard hex font
(20_memory.md R44).
-/

namespace Sys2Proof.Machine

/-- The default of `FONT`: PRESUMED (log entry 3). The spec supplies these bytes from general
knowledge; its source gives none (20_memory.md R44, D4). -/
def standardFont : Font :=
  #v[0xF0, 0x90, 0x90, 0x90, 0xF0,  0x20, 0x60, 0x20, 0x20, 0x70,
     0xF0, 0x10, 0xF0, 0x80, 0xF0,  0xF0, 0x10, 0xF0, 0x10, 0xF0,
     0x90, 0x90, 0xF0, 0x10, 0x10,  0xF0, 0x80, 0xF0, 0x10, 0xF0,
     0xF0, 0x80, 0xF0, 0x90, 0xF0,  0xF0, 0x10, 0x20, 0x40, 0x40,
     0xF0, 0x90, 0xF0, 0x90, 0xF0,  0xF0, 0x90, 0xF0, 0x10, 0xF0,
     0xF0, 0x90, 0xF0, 0x90, 0x90,  0xE0, 0x90, 0xE0, 0x90, 0xE0,
     0xF0, 0x80, 0x80, 0x80, 0xF0,  0xE0, 0x90, 0x90, 0x90, 0xE0,
     0xF0, 0x80, 0xF0, 0x80, 0xF0,  0xF0, 0x80, 0xF0, 0x80, 0x80]

/-- The default of every parameter of 00_scope.md R5. -/
def defaultConfig : Config where
  font := standardFont
  shiftSourceVy := true
  loadStoreAdvancesI := true
  jumpOffsetVx := false
  drawWrap := false

end Sys2Proof.Machine
end

