-- ==== Sys2Proof/Machine/State.lean ====
section
/-!
DEFINITION. The state of the machine as plain data (10_state.md R10 to R24), its reset value
(10_state.md R23, 70_reset_and_hazards.md R200), and the reasons a step can stop.
-/

namespace Sys2Proof.Machine

/-- The fatal faults of 60_exceptions.md R160. A fault of this type is no stop of the model: it is
taken, as a next state with the latch written (60_exceptions.md R163). -/
inductive FaultCause where
  | stackOverflow
  | stackUnderflow
  | addressOverflow
  | pcOutOfRange
  | pcMisaligned
  | protectedWrite
  deriving DecidableEq, Repr

/-- The fault latch (10_state.md R20). -/
structure FaultLatch where
  /-- `fault_valid`: false is RUNNING, true is FAULTED. -/
  valid : Bool
  /-- `fault_cause`: the code of 60_exceptions.md R160. -/
  cause : BitVec 3
  /-- `fault_ia`: `pc` at the start of the faulting Tick. -/
  ia : Word
  /-- `fault_opcode`: the fetched word, 0 for `PcOutOfRange`. -/
  opcode : Word
  /-- `fault_info`: the cause's own value. -/
  info : Word
  deriving DecidableEq, Repr

/-- The empty latch: "all 0 (RUNNING)" (10_state.md R23). -/
def FaultLatch.empty : FaultLatch := ⟨false, 0, 0, 0, 0⟩

/-- The result of a Tick (60_exceptions.md R184). -/
inductive TickResult where
  /-- No Tick since reset (DESIGN CHOICE, log entry 4). -/
  | none
  | ok
  /-- `OkDiag(UnknownOpcode, op, ia)` (46_unknown_opcode.md R150). -/
  | okDiag (op ia : Word)
  /-- `Fault(code)`. -/
  | fault (code : BitVec 3)
  deriving DecidableEq, Repr

/-- The result of a Load (60_exceptions.md R185). -/
inductive LoadResult where
  /-- No Load since reset (DESIGN CHOICE, log entry 4). -/
  | none
  | ok
  | loadTooLarge
  deriving DecidableEq, Repr

/-- The six atomic events of 60_exceptions.md R184. -/
inductive Event where
  | tick
  | timer60
  | reset
  | load (rom : List Byte)
  | keySet (k : Fin 16) (b : Bool)
  | redrawAck
  deriving DecidableEq, Repr

/-- The framebuffer: row `y` (0 is the top), then column `x` (10_state.md R15). -/
abbrev Framebuffer := Vector (Vector Bool 64) 32

/-- All pixels off. -/
def Framebuffer.blank : Framebuffer := Vector.replicate 32 (Vector.replicate 64 false)

/-- The whole state. The fields down to `mem` are the spec's Machine State with the redraw flag and
the fault latch (10_state.md R21); `tickResult` and `loadResult` are outputs the host reads
(60_exceptions.md R189); `cfg` is the configuration, which nothing writes (log entry 2); `draws` and
`pending` are the model's own (log entries 5 and 1). -/
structure State where
  /-- `V[0]..V[15]` (R10); `V[15]` is `VF` (R11). -/
  v : Vector Byte 16
  /-- The index register `I` (R12). -/
  i : Word
  /-- The program counter (R13). -/
  pc : Word
  /-- The depth of the return stack, 0..16 (R14). -/
  sp : Fin 17
  /-- The return stack (R14). -/
  stack : Vector Word 16
  /-- The framebuffer (R15). -/
  fb : Framebuffer
  /-- The keypad state register (R16). -/
  keypad : Vector Bool 16
  /-- The delay timer `DT` (R17). -/
  dt : Byte
  /-- The sound timer `ST` (R18). -/
  st : Byte
  /-- The redraw flag (R19). -/
  redraw : Bool
  /-- The fault latch (R20). -/
  fault : FaultLatch
  /-- Main memory: the bytes that differ from their reset value, addresses strictly rising
  (20_memory.md R41, 10_state.md R23). -/
  mem : List Host.Cell
  /-- The result of the last Tick. -/
  tickResult : TickResult
  /-- The result of the last Load. -/
  loadResult : LoadResult
  /-- The configuration (00_scope.md R5). -/
  cfg : Config
  /-- MODEL'S OWN: how many random bytes have been drawn (log entry 5). -/
  draws : Nat
  /-- MODEL'S OWN: the events that come before the next unasked Tick, oldest first (log entry 1). -/
  pending : List Event
  deriving DecidableEq, Repr

/-- The reset value of every piece of state (10_state.md R23), for a machine of configuration
`cfg`. -/
def State.initial (cfg : Config) : State where
  v := Vector.replicate 16 0
  i := 0
  pc := 0x200
  sp := 0
  stack := Vector.replicate 16 0
  fb := Framebuffer.blank
  keypad := Vector.replicate 16 false
  dt := 0
  st := 0
  redraw := false
  fault := FaultLatch.empty
  mem := []
  tickResult := .none
  loadResult := .none
  cfg := cfg
  draws := 0
  pending := []

/-- The machine right after power-on or Reset, in its default configuration. -/
def State.reset : State := State.initial defaultConfig

/-- Why the machine stops without a next state. The spec's own fatal faults are no stops: they
are next states. -/
inductive Fault where
  /-- Raised by the fetch of a Tick whose `pc` is odd and in 0x200..0xFFE, which the spec calls
  "not split, not wrapped and not defined" (20_memory.md R50). No state with an even `pc` raises
  it, and every step keeps `pc` even. SAFE: the machine stops where the spec gives no effect
  (log entry 6). -/
  | misalignedFetch (pc : Word)
  deriving DecidableEq, Repr

/-- Why a step has no meaning. -/
inductive Refusal where
  /-- Raised by `exec`'s arm for an instruction that has no meaning yet. SAFE. No arm of this model
  raises it. -/
  | notModelled (mnemonic : String)
  deriving DecidableEq, Repr

/-- What a step of this machine answers. -/
abbrev Answer := Host.Outcome State Fault Refusal

end Sys2Proof.Machine
end

