-- ==== Sys2Proof/Machine/Ops.lean ====
section
/-!
DEFINITION. The named operations over registers, memory, stack and display; taking a fault; and the
way out of the FAULTED state.
-/

namespace Sys2Proof.Machine

/-! ### Registers (10_state.md R10, R12, R13) -/

/-- `V[x]`. -/
def State.getV (s : State) (x : Nibble) : Byte := s.v[x.toNat]'x.isLt

/-- `V[x] <- b`. -/
def State.setV (s : State) (x : Nibble) (b : Byte) : State :=
  { s with v := s.v.set x.toNat b x.isLt }

/-- The register index of `VF` (10_state.md R11). -/
def vf : Nibble := 0xF

/-- `I <- w`. -/
def State.setI (s : State) (w : Word) : State := { s with i := w }

/-- `pc <- w`. -/
def State.setPc (s : State) (w : Word) : State := { s with pc := w }

/-- `V[k], V[k+1], .. <-` the bytes of the list, in that order (45_index_memory.md R145). -/
def State.setRegs (s : State) (k : Nat) : List Byte → State
  | [] => s
  | b :: bs => (s.setV (BitVec.ofNat 4 k) b).setRegs (k + 1) bs

/-- `V[0], .., V[n - 1]` (45_index_memory.md R144). -/
def State.getRegs (s : State) (n : Nat) : List Byte :=
  (List.range n).map fun k => s.getV (BitVec.ofNat 4 k)

/-! ### Main memory (20_memory.md R41 to R44) -/

/-- `MEM_SIZE - 1`: the greatest address that exists. -/
def maxAddr : Nat := 0xFFF
/-- `FONT_BASE`. -/
def fontBase : Nat := 0x050
/-- `FONT_END`. -/
def fontEnd : Nat := 0x09F
/-- `PROG_BASE`. -/
def progBase : Nat := 0x200
/-- `ROM_MAX`. -/
def romMax : Nat := 3584

/-- What an unlisted address reads as: its reset contents, which are the font at 0x050..0x09F and
zero elsewhere (10_state.md R23). Zero above 0xFFF, where no byte exists and nothing reads (DESIGN
CHOICE, log entry 10). -/
def resetByte (font : Font) (a : Nat) : Byte :=
  if h : 0x050 ≤ a ∧ a ≤ 0x09F then font[a - 0x050]'(by omega) else 0

/-- The byte at address `a`. -/
def cellRead (font : Font) : List Host.Cell → Nat → Byte
  | [], a => resetByte font a
  | c :: m, a => if c.1 = a then c.2 else cellRead font m a

/-- Put the byte `b` at address `a`, keeping the list in canonical form. -/
def cellWrite (font : Font) : List Host.Cell → Nat → Byte → List Host.Cell
  | [], a, b => if b = resetByte font a then [] else [(a, b)]
  | c :: m, a, b =>
    if a < c.1 then (if b = resetByte font a then c :: m else (a, b) :: c :: m)
    else if a = c.1 then (if b = resetByte font a then m else (a, b) :: m)
    else c :: cellWrite font m a b

/-- The canonical form of a memory: addresses strictly rising, and no entry equal to what an
unlisted address reads as. -/
def Memory.wf (font : Font) (m : List Host.Cell) : Bool :=
  decide (m.Pairwise fun c d => c.1 < d.1) && m.all fun c => c.2 != resetByte font c.1

/-- `memory[a]`. The ranges that instructions may read are checked before by `checkRange`. -/
def State.readByte (s : State) (a : Nat) : Byte := cellRead s.cfg.font s.mem a

/-- `memory[a] <- b`. The ranges that instructions may write are checked before by `checkRange`. -/
def State.writeByte (s : State) (a : Nat) (b : Byte) : State :=
  { s with mem := cellWrite s.cfg.font s.mem a b }

/-- The `n` bytes from address `a` on, in ascending order (20_memory.md R51). -/
def State.readBytes (s : State) (a n : Nat) : List Byte :=
  (List.range n).map fun k => s.readByte (a + k)

/-- Store the bytes of the list from address `a` on, in ascending order (20_memory.md R51). -/
def State.writeBytes (s : State) (a : Nat) : List Byte → State
  | [] => s
  | b :: bs => (s.writeByte a b).writeBytes (a + 1) bs

/-! ### Taking a fault (60_exceptions.md R160 to R164) -/

/-- The numeric code of a fault (60_exceptions.md R160). -/
def FaultCause.code : FaultCause → BitVec 3
  | .stackOverflow => 1
  | .stackUnderflow => 2
  | .addressOverflow => 3
  | .pcOutOfRange => 4
  | .pcMisaligned => 5
  | .protectedWrite => 6

/-- Fault entry, the one operation every fault goes through: `pc` is the address of the faulting
instruction again, the latch is written, and the Tick's result is `Fault(code)`
(60_exceptions.md R162, R163). -/
def State.takeFault (s : State) (c : FaultCause) (ia op info : Word) : State :=
  { s with
    pc := ia
    fault := ⟨true, c.code, ia, op, info⟩
    tickResult := .fault c.code }

/-- `raise c(info)` in the instruction of word `op`. Its meaning sees `pc = ia + 2`
(30_encoding.md R62) and has written nothing, so nothing else is to be undone. -/
def raise (c : FaultCause) (op info : Word) (s : State) : Answer :=
  .next (s.takeFault c (s.pc - 2) op info)

/-- The Reset event: every piece of state at its reset value. The configuration is not touched
(70_reset_and_hazards.md R200). The model's own fields are not the machine's: the random bytes to
come stay fresh (log entry 5), and the events to come still come (log entry 1). This is also the
one way out of the FAULTED state (60_exceptions.md R165). -/
def State.resetEvent (s : State) : State :=
  { State.initial s.cfg with draws := s.draws, pending := s.pending }

/-- `diag UnknownOpcode(op, ia)`: an output of the Tick, not a fault (46_unknown_opcode.md R150). -/
def State.diag (s : State) (op : Word) : State :=
  { s with tickResult := .okDiag op (s.pc - 2) }

/-! ### Range check (20_memory.md R47 to R49) -/

/-- Whether an access reads or writes. -/
inductive AccessKind where
  | read
  | write
  deriving DecidableEq, Repr

/-- `CheckRange(a, n, kind)` with `a = I`: the fault that an access to the `n` bytes from `I` on
raises, with its info, or `none`. The sum is unbounded. With `n = 1` it is the check of
MemRead (20_memory.md R47) and MemWrite (R48); `n = 0` is no access and raises nothing. -/
def State.checkRange (s : State) (n : Nat) (kind : AccessKind) : Option (FaultCause × Word) :=
  if n = 0 then none
  else if s.i.toNat + n - 1 > maxAddr then some (.addressOverflow, s.i)
  else if kind = .write ∧ s.i.toNat ≤ fontEnd ∧ fontBase ≤ s.i.toNat + n - 1 then
    some (.protectedWrite, BitVec.ofNat 16 (max s.i.toNat fontBase))
  else none

/-! ### Transfers and the return stack (10_state.md R14, 40_control_jump_call.md R85) -/

/-- A transfer target is misaligned: bit 0 is 1 (40_control_jump_call.md R85). -/
def misaligned (t : Word) : Bool := t.getLsbD 0

/-- Push `pc` on the return stack, if there is room. -/
def State.push (s : State) : Option State :=
  if h : s.sp.val < 16 then
    some { s with stack := s.stack.set s.sp.val s.pc h, sp := ⟨s.sp.val + 1, by omega⟩ }
  else none

/-- Pop the return stack into `pc`, if it holds an entry. The popped slot keeps its value. -/
def State.pop (s : State) : Option State :=
  if h : 0 < s.sp.val then
    some { s with pc := s.stack[s.sp.val - 1]'(by omega), sp := ⟨s.sp.val - 1, by omega⟩ }
  else none

/-! ### Display (10_state.md R15, R19) -/

/-- `FB[y][x]`; a coordinate outside the grid has no pixel, and reads as off (DESIGN CHOICE, log
entry 11). -/
def pixel (fb : Framebuffer) (x y : Nat) : Bool :=
  if h : x < 64 ∧ y < 32 then (fb[y]'h.2)[x]'h.1 else false

/-- Write the framebuffer and raise the redraw signal. -/
def State.display (s : State) (fb : Framebuffer) : State := { s with fb := fb, redraw := true }

/-! ### Outputs (60_exceptions.md R189) -/

/-- `sound_on` (60_exceptions.md R183). -/
def State.soundOn (s : State) : Bool := s.st != 0

/-- Element `k` of the framebuffer export, `k` in 0..2047 (10_state.md R15). -/
def State.fbExport (s : State) (k : Fin 2048) : Bool := pixel s.fb (k.val % 64) (k.val / 64)

end Sys2Proof.Machine
end

