-- ==== Sys2Proof/Machine/Flags.lean ====
section
/-!
DEFINITION. The results and flags of the ALU (42_arith_logic_shift.md R107 to R112), and the order in
which a flag-writing instruction writes them (R100).
-/

namespace Sys2Proof.Machine

/-- A flag value: 0x00 or 0x01, all 8 bits (10_state.md R11). -/
def flagByte (b : Bool) : Byte := if b then 1 else 0

/-- Carry of ADD Vx,Vy: 1 iff the true sum exceeds 255 (R107, R112). -/
def carryFlag (a b : Byte) : Byte := flagByte (decide (a.toNat + b.toNat > 255))

/-- Not-borrow of `a - b`: 1 iff `a >= b` (R108, R110, R112). -/
def noBorrowFlag (a b : Byte) : Byte := flagByte (decide (a.toNat ≥ b.toNat))

/-- `(a + b) mod 256`. -/
def sumByte (a b : Byte) : Byte := BitVec.ofNat 8 ((a.toNat + b.toNat) % 256)

/-- `(a - b) mod 256 = (a + 256 - b) mod 256`. -/
def diffByte (a b : Byte) : Byte := BitVec.ofNat 8 ((a.toNat + 256 - b.toNat) % 256)

/-- Logical shift right by one (R109). -/
def shrByte (a : Byte) : Byte := a >>> 1

/-- The bit SHR shifts out: bit 0 (R109). -/
def shrFlag (a : Byte) : Byte := flagByte (a.getLsbD 0)

/-- Shift left by one, mod 256 (R111). -/
def shlByte (a : Byte) : Byte := a <<< 1

/-- The bit SHL shifts out: bit 7 (R111). -/
def shlFlag (a : Byte) : Byte := flagByte (a.getLsbD 7)

/-- Write the result to `V[x]`, then the flag to `VF`, last: with `x = 0xF` the flag is what stays
(R100, the spec's decision D16). -/
def State.setResultFlag (s : State) (x : Nibble) (r flag : Byte) : State :=
  (s.setV x r).setV vf flag

end Sys2Proof.Machine
end

