-- ==== Sys2Proof/Machine/Operands.lean ====
section
/-!
DEFINITION. The operands the instructions compute from registers and the configuration.
-/

namespace Sys2Proof.Machine

/-- `zext_16(NNN)` (30_encoding.md R68). -/
def zextAddr (nnn : Addr12) : Word := nnn.setWidth 16

/-- `KeyIndex(v) = v[3:0]` (10_state.md R24). -/
def keyIndex (b : Byte) : Nibble := b.extractLsb' 0 4

/-- The flag of key `k`. -/
def State.key (s : State) (k : Nibble) : Bool := s.keypad[k.toNat]'k.isLt

/-- The least pressed key among `k, .., k + n - 1`, if any. -/
def firstKeyFrom (s : State) : Nat → Nat → Option Nibble
  | 0, _ => none
  | n + 1, k =>
    if s.key (BitVec.ofNat 4 k) then some (BitVec.ofNat 4 k) else firstKeyFrom s n (k + 1)

/-- The lowest-numbered pressed key, if any (44_keypad_timer.md R131). -/
def State.firstKey (s : State) : Option Nibble := firstKeyFrom s 16 0

/-- The source of SHR and SHL: `V[Y]`, or `V[X]` where `SHIFT_SOURCE_VY` is false
(42_arith_logic_shift.md R109). -/
def State.shiftSource (s : State) (x y : Nibble) : Byte :=
  if s.cfg.shiftSourceVy then s.getV y else s.getV x

/-- The target of JP V0: `NNN + V[0]`, or `NNN + V[X]` with `X = NNN[11:8]` where `JUMP_OFFSET_VX`
is true; not reduced (40_control_jump_call.md R84). -/
def State.jumpOffsetTarget (s : State) (nnn : Addr12) : Word :=
  let r : Nibble := if s.cfg.jumpOffsetVx then nnn.extractLsb' 8 4 else 0
  zextAddr nnn + (s.getV r).setWidth 16

/-- The font address of the low nibble of a byte (45_index_memory.md R142). -/
def glyphAddr (b : Byte) : Word := 0x050 + 5 * (b.extractLsb' 0 4).setWidth 16

/-- Hundreds, tens and ones of a byte (45_index_memory.md R143). -/
def bcdDigits (b : Byte) : List Byte :=
  [BitVec.ofNat 8 (b.toNat / 100), BitVec.ofNat 8 (b.toNat / 10 % 10), BitVec.ofNat 8 (b.toNat % 10)]

/-- `I` after a block load or store of `V[0]..V[X]`: `I + X + 1`, or `I` where
`LOADSTORE_ADVANCES_I` is false (45_index_memory.md R144, R145). -/
def State.indexAfterBlock (s : State) (x : Nibble) : Word :=
  if s.cfg.loadStoreAdvancesI then s.i + x.setWidth 16 + 1 else s.i

/-! ### Sprites (43_random_draw.md R122, R123) -/

/-- The sprite bit of column offset `col` (0..7): bit `7 - col`, so bit 7 is the leftmost. -/
def spriteBit (b : Byte) (col : Nat) : Bool := b.getLsbD (7 - col)

/-- Toggle the pixel at column `px`, row `py`, if it is on the grid; a pixel that was on is a
collision. The Bool of the pair is the collision so far. -/
def togglePixel (px py : Nat) (acc : Framebuffer × Bool) : Framebuffer × Bool :=
  if h : px < 64 ∧ py < 32 then
    let row := acc.1[py]'h.2
    let old := row[px]'h.1
    (acc.1.set py (row.set px (!old) h.1) h.2, acc.2 || old)
  else acc

/-- The column a sprite bit at column `x` lands on: reduced where `DRAW_WRAP` is true. -/
def landX (wrap : Bool) (x : Nat) : Nat := if wrap then x % 64 else x
/-- The row a sprite bit at row `y` lands on: reduced where `DRAW_WRAP` is true. -/
def landY (wrap : Bool) (y : Nat) : Nat := if wrap then y % 32 else y

/-- XOR one set sprite bit onto the pixel at column `x`, row `y`; a pixel outside the grid is
dropped. -/
def drawPixel (wrap : Bool) (x y : Nat) (acc : Framebuffer × Bool) : Framebuffer × Bool :=
  togglePixel (landX wrap x) (landY wrap y) acc

/-- Draw the columns `col .. col + n - 1` of one sprite row. -/
def drawCols (wrap : Bool) (x0 y : Nat) (b : Byte) : Nat → Nat → Framebuffer × Bool → Framebuffer × Bool
  | 0, _, acc => acc
  | n + 1, col, acc =>
    drawCols wrap x0 y b n (col + 1)
      (if spriteBit b col then drawPixel wrap (x0 + col) y acc else acc)

/-- Draw the rows of a sprite, the first at row `y`, each of 8 columns from column `x0` on. -/
def drawRows (wrap : Bool) (x0 : Nat) : Nat → List Byte → Framebuffer × Bool → Framebuffer × Bool
  | _, [], acc => acc
  | y, b :: bs, acc => drawRows wrap x0 (y + 1) bs (drawCols wrap x0 y b 8 0 acc)

end Sys2Proof.Machine
end

