-- ==== Sys2Proof/Machine/Alu.lean ====
section
/-!
DEFINITION. Load, arithmetic, logic and shift instructions (42_arith_logic_shift.md R100 to R112).
`s` is the state after the fetch, and `pc` stays `ia + 2`. Operands are read from `s`, before any
write (R100).
-/

namespace Sys2Proof.Machine

/-- LD Vx, NN (R101). -/
def execLdImm (x : Nibble) (nn : Byte) (s : State) : Answer := .next (s.setV x nn)

/-- ADD Vx, NN (R102). -/
def execAddImm (x : Nibble) (nn : Byte) (s : State) : Answer :=
  .next (s.setV x (sumByte (s.getV x) nn))

/-- LD Vx, Vy (R103). -/
def execLdReg (x y : Nibble) (s : State) : Answer := .next (s.setV x (s.getV y))

/-- OR Vx, Vy (R104). -/
def execOr (x y : Nibble) (s : State) : Answer := .next (s.setV x (s.getV x ||| s.getV y))

/-- AND Vx, Vy (R105). -/
def execAnd (x y : Nibble) (s : State) : Answer := .next (s.setV x (s.getV x &&& s.getV y))

/-- XOR Vx, Vy (R106). -/
def execXor (x y : Nibble) (s : State) : Answer := .next (s.setV x (s.getV x ^^^ s.getV y))

/-- ADD Vx, Vy (R107). -/
def execAddReg (x y : Nibble) (s : State) : Answer :=
  .next (s.setResultFlag x (sumByte (s.getV x) (s.getV y)) (carryFlag (s.getV x) (s.getV y)))

/-- SUB Vx, Vy (R108). -/
def execSub (x y : Nibble) (s : State) : Answer :=
  .next (s.setResultFlag x (diffByte (s.getV x) (s.getV y)) (noBorrowFlag (s.getV x) (s.getV y)))

/-- SHR Vx, Vy (R109). -/
def execShr (x y : Nibble) (s : State) : Answer :=
  .next (s.setResultFlag x (shrByte (s.shiftSource x y)) (shrFlag (s.shiftSource x y)))

/-- SUBN Vx, Vy (R110). -/
def execSubn (x y : Nibble) (s : State) : Answer :=
  .next (s.setResultFlag x (diffByte (s.getV y) (s.getV x)) (noBorrowFlag (s.getV y) (s.getV x)))

/-- SHL Vx, Vy (R111). -/
def execShl (x y : Nibble) (s : State) : Answer :=
  .next (s.setResultFlag x (shlByte (s.shiftSource x y)) (shlFlag (s.shiftSource x y)))

end Sys2Proof.Machine
end

