-- ==== Sys2Proof/WellFormed.lean ====
section
/-!
DEFINITION. Which terms of `Instr` are instructions of the machine. Every field has exactly its
encoding's width, so the one check left is SYS's: `0NNN` is SYS only where `NNN` is neither 0x0E0
(CLS) nor 0x0EE (RET) (30_encoding.md R65 row 35, 46_unknown_opcode.md R151).
-/

namespace Sys2Proof

/-- The instruction has an encoding of its own. -/
def Instr.wellFormed : Instr → Bool
  | .cls | .ret => true
  | .jp _ | .call _ | .ldI _ | .jpV0 _ => true
  | .seImm _ _ | .sneImm _ _ | .ldImm _ _ | .addImm _ _ | .rnd _ _ => true
  | .seReg _ _ | .sneReg _ _ | .ldReg _ _ | .orReg _ _ | .andReg _ _ | .xorReg _ _ => true
  | .addReg _ _ | .sub _ _ | .shr _ _ | .subn _ _ | .shl _ _ => true
  | .drw _ _ _ => true
  | .skp _ | .sknp _ | .ldVxDt _ | .ldVxK _ | .ldDtVx _ | .ldStVx _ => true
  | .addI _ | .ldF _ | .ldB _ | .storeRegs _ | .loadRegs _ => true
  | .sys nnn => nnn != 0x0E0#12 && nnn != 0x0EE#12

end Sys2Proof
end

