-- ==== Sys2Proof/Decode.lean ====
section
/-!
DEFINITION. The decoder and the encoder of the instruction words (30_encoding.md R60 to R68).
The decoder is total: a word is an instruction of the opcode map or it is unknown, and an unknown
word is kept, since the diagnostic of 46_unknown_opcode.md R150 carries it.
-/

namespace Sys2Proof

/-! ### The fields of a word (30_encoding.md R61) -/

/-- `n3`, the class: bits 15:12. -/
def fieldClass (op : Word) : Nibble := op.extractLsb' 12 4
/-- `X`: bits 11:8. -/
def fieldX (op : Word) : Nibble := op.extractLsb' 8 4
/-- `Y`: bits 7:4. -/
def fieldY (op : Word) : Nibble := op.extractLsb' 4 4
/-- `N`: bits 3:0. -/
def fieldN (op : Word) : Nibble := op.extractLsb' 0 4
/-- `NN`: bits 7:0. -/
def fieldNN (op : Word) : Byte := op.extractLsb' 0 8
/-- `NNN`: bits 11:0. -/
def fieldNNN (op : Word) : Addr12 := op.extractLsb' 0 12

/-! ### Decoding (30_encoding.md R64, R65) -/

/-- What a word decodes to: an instruction of the opcode map, or UNKNOWN. -/
inductive Decoded where
  | instr (i : Instr)
  | unknown (op : Word)
  deriving DecidableEq, Repr

/-- Class 0: the two fixed words, else the SYS space. -/
def decodeClass0 (op : Word) : Decoded :=
  if op = 0x00E0#16 then .instr .cls
  else if op = 0x00EE#16 then .instr .ret
  else .instr (.sys (fieldNNN op))

/-- Class 8: the minor opcode is `N`, matched exactly. -/
def decodeClass8 (op : Word) : Decoded :=
  let x := fieldX op
  let y := fieldY op
  match (fieldN op).toNat with
  | 0x0 => .instr (.ldReg x y)
  | 0x1 => .instr (.orReg x y)
  | 0x2 => .instr (.andReg x y)
  | 0x3 => .instr (.xorReg x y)
  | 0x4 => .instr (.addReg x y)
  | 0x5 => .instr (.sub x y)
  | 0x6 => .instr (.shr x y)
  | 0x7 => .instr (.subn x y)
  | 0xE => .instr (.shl x y)
  | _ => .unknown op

/-- Class E: the minor opcode is `NN`. -/
def decodeClassE (op : Word) : Decoded :=
  let x := fieldX op
  match (fieldNN op).toNat with
  | 0x9E => .instr (.skp x)
  | 0xA1 => .instr (.sknp x)
  | _ => .unknown op

/-- Class F: the minor opcode is `NN`. -/
def decodeClassF (op : Word) : Decoded :=
  let x := fieldX op
  match (fieldNN op).toNat with
  | 0x07 => .instr (.ldVxDt x)
  | 0x0A => .instr (.ldVxK x)
  | 0x15 => .instr (.ldDtVx x)
  | 0x18 => .instr (.ldStVx x)
  | 0x1E => .instr (.addI x)
  | 0x29 => .instr (.ldF x)
  | 0x33 => .instr (.ldB x)
  | 0x55 => .instr (.storeRegs x)
  | 0x65 => .instr (.loadRegs x)
  | _ => .unknown op

/-- `Decode(op)` (30_encoding.md R64). -/
def decodeWord (op : Word) : Decoded :=
  let x := fieldX op
  let y := fieldY op
  let n := fieldN op
  let nn := fieldNN op
  let nnn := fieldNNN op
  match (fieldClass op).toNat with
  | 0x0 => decodeClass0 op
  | 0x1 => .instr (.jp nnn)
  | 0x2 => .instr (.call nnn)
  | 0x3 => .instr (.seImm x nn)
  | 0x4 => .instr (.sneImm x nn)
  | 0x5 => if n = 0 then .instr (.seReg x y) else .unknown op
  | 0x6 => .instr (.ldImm x nn)
  | 0x7 => .instr (.addImm x nn)
  | 0x8 => decodeClass8 op
  | 0x9 => if n = 0 then .instr (.sneReg x y) else .unknown op
  | 0xA => .instr (.ldI nnn)
  | 0xB => .instr (.jpV0 nnn)
  | 0xC => .instr (.rnd x nn)
  | 0xD => .instr (.drw x y n)
  | 0xE => decodeClassE op
  | _ => decodeClassF op

/-- The word of two bytes as they lie in memory, the byte at the lower address first
(20_memory.md R45). -/
def wordOfBytes (hi lo : Byte) : Word := hi ++ lo

/-- Decode the two bytes of an instruction, the byte at the lower address first. -/
def decodeBytes (hi lo : Byte) : Decoded := decodeWord (wordOfBytes hi lo)

/-- The byte of a word that is stored at the lower address: its high byte. -/
def firstByte (op : Word) : Byte := op.extractLsb' 8 8
/-- The byte of a word that is stored at the higher address: its low byte. -/
def secondByte (op : Word) : Byte := op.extractLsb' 0 8

/-- The instruction the decoder reads from the table's `nbits` bits `w`: one 16-bit word, stored
big-endian; any bit above `nbits` is 0. `none` where the word is unknown. -/
def decodeTableWord (nbits w : Nat) : Option Instr :=
  let op : Word := BitVec.ofNat 16 (w % 2 ^ nbits)
  match decodeBytes (firstByte op) (secondByte op) with
  | .instr i => some i
  | .unknown _ => none

/-! ### Encoding (30_encoding.md R63, R65) -/

/-- Format `NNN`. -/
def encNNN (c : Nibble) (nnn : Addr12) : Word := c ++ nnn
/-- Format `XNN`; format `X` has the minor opcode in the place of `NN`. -/
def encXNN (c x : Nibble) (nn : Byte) : Word := c ++ x ++ nn
/-- Format `XYN`; format `XY` has the minor opcode in the place of `N`. -/
def encXYN (c x y n : Nibble) : Word := c ++ x ++ y ++ n

/-- The word of an instruction. -/
def encode : Instr → Word
  | .cls => 0x00E0
  | .ret => 0x00EE
  | .jp nnn => encNNN 0x1 nnn
  | .call nnn => encNNN 0x2 nnn
  | .seImm x nn => encXNN 0x3 x nn
  | .sneImm x nn => encXNN 0x4 x nn
  | .seReg x y => encXYN 0x5 x y 0x0
  | .ldImm x nn => encXNN 0x6 x nn
  | .addImm x nn => encXNN 0x7 x nn
  | .ldReg x y => encXYN 0x8 x y 0x0
  | .orReg x y => encXYN 0x8 x y 0x1
  | .andReg x y => encXYN 0x8 x y 0x2
  | .xorReg x y => encXYN 0x8 x y 0x3
  | .addReg x y => encXYN 0x8 x y 0x4
  | .sub x y => encXYN 0x8 x y 0x5
  | .shr x y => encXYN 0x8 x y 0x6
  | .subn x y => encXYN 0x8 x y 0x7
  | .shl x y => encXYN 0x8 x y 0xE
  | .sneReg x y => encXYN 0x9 x y 0x0
  | .ldI nnn => encNNN 0xA nnn
  | .jpV0 nnn => encNNN 0xB nnn
  | .rnd x nn => encXNN 0xC x nn
  | .drw x y n => encXYN 0xD x y n
  | .skp x => encXNN 0xE x 0x9E
  | .sknp x => encXNN 0xE x 0xA1
  | .ldVxDt x => encXNN 0xF x 0x07
  | .ldVxK x => encXNN 0xF x 0x0A
  | .ldDtVx x => encXNN 0xF x 0x15
  | .ldStVx x => encXNN 0xF x 0x18
  | .addI x => encXNN 0xF x 0x1E
  | .ldF x => encXNN 0xF x 0x29
  | .ldB x => encXNN 0xF x 0x33
  | .storeRegs x => encXNN 0xF x 0x55
  | .loadRegs x => encXNN 0xF x 0x65
  | .sys nnn => encNNN 0x0 nnn

end Sys2Proof
end

