-- ==== Sys2Proof/Machine/Control.lean ====
section
/-!
DEFINITION. Control, jump and call instructions (40_control_jump_call.md R80 to R85). `s` is the
state after the fetch: `pc` is `ia + 2`.
-/

namespace Sys2Proof.Machine

/-- Jump to `t`, in the instruction of word `op`: an odd target raises `PcMisaligned(t)`; its range
is checked by the next fetch (R85). -/
def jumpTo (op t : Word) (s : State) : Answer :=
  if misaligned t then raise .pcMisaligned op t s else .next (s.setPc t)

/-- CLS (R80). -/
def execCls (s : State) : Answer := .next (s.display Framebuffer.blank)

/-- RET (R81). -/
def execRet (s : State) : Answer :=
  match s.pop with
  | none => raise .stackUnderflow (encode .ret) 0 s
  | some t => .next t

/-- JP NNN (R82). -/
def execJp (nnn : Addr12) (s : State) : Answer := jumpTo (encode (.jp nnn)) (zextAddr nnn) s

/-- CALL NNN (R83): the target is tested before the stack (60_exceptions.md R166). -/
def execCall (nnn : Addr12) (s : State) : Answer :=
  if misaligned (zextAddr nnn) then
    raise .pcMisaligned (encode (.call nnn)) (zextAddr nnn) s
  else
    match s.push with
    | none => raise .stackOverflow (encode (.call nnn)) (zextAddr nnn) s
    | some t => .next (t.setPc (zextAddr nnn))

/-- JP V0, NNN (R84). -/
def execJpV0 (nnn : Addr12) (s : State) : Answer :=
  jumpTo (encode (.jpV0 nnn)) (s.jumpOffsetTarget nnn) s

end Sys2Proof.Machine
end

