-- ==== Sys2Proof/Machine/Draw.lean ====
section
/-!
DEFINITION. Random and sprite draw (43_random_draw.md R120 to R123). `s` is the state after the
fetch, and `pc` stays `ia + 2`.
-/

namespace Sys2Proof.Machine

/-- RND Vx, NN (R121): the byte drawn is a free value, fresh at each execution (R120, log
entry 5). -/
def execRnd (x : Nibble) (nn : Byte) (s : State) : Answer :=
  .next { s.setV x (Config.drawByte s.draws &&& nn) with draws := s.draws + 1 }

/-- The framebuffer and the collision after drawing the `n` rows at `I` at column `x0`, row `y0`. -/
def State.drawSprite (s : State) (x0 y0 n : Nat) : Framebuffer × Bool :=
  drawRows s.cfg.drawWrap x0 y0 (s.readBytes s.i.toNat n) (s.fb, false)

/-- DRW Vx, Vy, N (R122). The coordinates are read before `VF` is written. -/
def execDrw (x y n : Nibble) (s : State) : Answer :=
  match s.checkRange n.toNat .read with
  | some (c, info) => raise c (encode (.drw x y n)) info s
  | none =>
    let drawn := s.drawSprite (s.getV x).toNat (s.getV y).toNat n.toNat
    .next ((s.display drawn.1).setV vf (flagByte drawn.2))

end Sys2Proof.Machine
end

