-- ==== Sys2Proof/Machine/Index.lean ====
section
/-!
DEFINITION. Index-register and memory instructions (45_index_memory.md R140 to R145). `s` is the
state after the fetch, and `pc` stays `ia + 2`. Each access range is checked before the first
write (20_memory.md R49).
-/

namespace Sys2Proof.Machine

/-- LD I, NNN (R140). -/
def execLdI (nnn : Addr12) (s : State) : Answer := .next (s.setI (zextAddr nnn))

/-- ADD I, Vx (R141): modulo 65536, no flag, no fault. -/
def execAddI (x : Nibble) (s : State) : Answer :=
  .next (s.setI (s.i + (s.getV x).setWidth 16))

/-- LD F, Vx (R142). -/
def execLdF (x : Nibble) (s : State) : Answer := .next (s.setI (glyphAddr (s.getV x)))

/-- LD B, Vx (R143). -/
def execLdB (x : Nibble) (s : State) : Answer :=
  match s.checkRange 3 .write with
  | some (c, info) => raise c (encode (.ldB x)) info s
  | none => .next (s.writeBytes s.i.toNat (bcdDigits (s.getV x)))

/-- LD [I], Vx (R144). -/
def execStoreRegs (x : Nibble) (s : State) : Answer :=
  match s.checkRange (x.toNat + 1) .write with
  | some (c, info) => raise c (encode (.storeRegs x)) info s
  | none =>
    .next ((s.writeBytes s.i.toNat (s.getRegs (x.toNat + 1))).setI (s.indexAfterBlock x))

/-- LD Vx, [I] (R145). -/
def execLoadRegs (x : Nibble) (s : State) : Answer :=
  match s.checkRange (x.toNat + 1) .read with
  | some (c, info) => raise c (encode (.loadRegs x)) info s
  | none =>
    .next ((s.setRegs 0 (s.readBytes s.i.toNat (x.toNat + 1))).setI (s.indexAfterBlock x))

end Sys2Proof.Machine
end

