-- ==== Sys2Proof/Machine/KeyTimer.lean ====
section
/-!
DEFINITION. Timer and wait-for-key instructions (44_keypad_timer.md R130 to R133). `s` is the state
after the fetch: `pc` is `ia + 2`.
-/

namespace Sys2Proof.Machine

/-- LD Vx, DT (R130). -/
def execLdVxDt (x : Nibble) (s : State) : Answer := .next (s.setV x s.dt)

/-- LD Vx, K (R131): with no key pressed, `pc` goes back to `ia` and the instruction repeats. -/
def execLdVxK (x : Nibble) (s : State) : Answer :=
  match s.firstKey with
  | none => .next (s.setPc (s.pc - 2))
  | some k => .next (s.setV x (k.setWidth 8))

/-- LD DT, Vx (R132). -/
def execLdDtVx (x : Nibble) (s : State) : Answer := .next { s with dt := s.getV x }

/-- LD ST, Vx (R133). -/
def execLdStVx (x : Nibble) (s : State) : Answer := .next { s with st := s.getV x }

end Sys2Proof.Machine
end

