-- ==== Sys2Proof/Machine/Skip.lean ====
section
/-!
DEFINITION. Conditional skips (41_skip.md R90 to R96). `s` is the state after the fetch: `pc` is
`ia + 2`.
-/

namespace Sys2Proof.Machine

/-- Advance `pc` by an additional 2 when the condition holds (R90). -/
def skipIf (cond : Bool) (s : State) : Answer := .next (if cond then s.setPc (s.pc + 2) else s)

/-- SE Vx, NN (R91). -/
def execSeImm (x : Nibble) (nn : Byte) (s : State) : Answer := skipIf (s.getV x == nn) s

/-- SNE Vx, NN (R92). -/
def execSneImm (x : Nibble) (nn : Byte) (s : State) : Answer := skipIf (s.getV x != nn) s

/-- SE Vx, Vy (R93). -/
def execSeReg (x y : Nibble) (s : State) : Answer := skipIf (s.getV x == s.getV y) s

/-- SNE Vx, Vy (R94). -/
def execSneReg (x y : Nibble) (s : State) : Answer := skipIf (s.getV x != s.getV y) s

/-- SKP Vx (R95). -/
def execSkp (x : Nibble) (s : State) : Answer := skipIf (s.key (keyIndex (s.getV x))) s

/-- SKNP Vx (R96). -/
def execSknp (x : Nibble) (s : State) : Answer := skipIf (!s.key (keyIndex (s.getV x))) s

end Sys2Proof.Machine
end

