-- ==== Sys2Proof/Machine/Unknown.lean ====
section
/-!
DEFINITION. Unknown opcodes and the SYS space (46_unknown_opcode.md R150, R151): a no-op with a
diagnostic. `s` is the state after the fetch, and `pc` stays `ia + 2`.
-/

namespace Sys2Proof.Machine

/-- UNKNOWN, the word `op` (R150). -/
def execUnknown (op : Word) (s : State) : Answer := .next (s.diag op)

/-- SYS NNN (R151): exactly as UNKNOWN. -/
def execSys (nnn : Addr12) (s : State) : Answer := .next (s.diag (encode (.sys nnn)))

end Sys2Proof.Machine
end

