-- ==== Sys2Proof/Machine/Tick.lean ====
section
/-!
DEFINITION. Fetch and the Tick (20_memory.md R46, 30_encoding.md R62), the other five events
(60_exceptions.md R180 to R188), and the choice of the event a step performs.
-/

namespace Sys2Proof.Machine

/-- The instruction word at `pc`, read big-endian (20_memory.md R45, R46). -/
def State.fetchWord (s : State) : Word :=
  wordOfBytes (s.readByte s.pc.toNat) (s.readByte (s.pc.toNat + 1))

/-- The state an instruction's meaning sees: `pc` is `ia + 2`, and the Tick's result is `Ok` unless
the meaning says otherwise (30_encoding.md R62). -/
def State.afterFetch (s : State) : State := { s with pc := s.pc + 2, tickResult := .ok }

/-- `pc` is outside 0x200..0xFFE (20_memory.md R46). -/
def State.pcOutOfRange (s : State) : Bool :=
  decide (s.pc.toNat < 0x200) || decide (0xFFE < s.pc.toNat)

/-- Run a decoded word. -/
def execDecoded (d : Decoded) (s : State) : Answer :=
  match d with
  | .instr i => exec i s
  | .unknown op => execUnknown op s

/-- `Tick()` (30_encoding.md R62), its checks in the order of 60_exceptions.md R161. A FAULTED core
answers its fault again and changes nothing (R164). -/
def tick (s : State) : Answer :=
  if s.fault.valid then .next { s with tickResult := .fault s.fault.cause }
  else if s.pcOutOfRange then .next (s.takeFault .pcOutOfRange s.pc 0 s.pc)
  else if misaligned s.pc then .fault (.misalignedFetch s.pc)
  else execDecoded (decodeWord s.fetchWord) s.afterFetch

/-- One count of a timer toward zero (60_exceptions.md R180). -/
def countDown (t : Byte) : Byte := if t.toNat > 0 then t - 1 else t

/-- `Timer60()` (60_exceptions.md R180). -/
def State.timer60 (s : State) : State := { s with dt := countDown s.dt, st := countDown s.st }

/-- `Load(rom)` (60_exceptions.md R185). -/
def State.load (s : State) (rom : List Byte) : State :=
  if rom.length > romMax then { s with loadResult := .loadTooLarge }
  else { (s.writeBytes progBase rom) with pc := 0x200, loadResult := .ok }

/-- `KeySet(k, b)` (60_exceptions.md R186). -/
def State.keySet (s : State) (k : Fin 16) (b : Bool) : State :=
  { s with keypad := s.keypad.set k.val b k.isLt }

/-- `RedrawAck()` (60_exceptions.md R187). -/
def State.redrawAck (s : State) : State := { s with redraw := false }

/-- Perform one event (60_exceptions.md R184). -/
def applyEvent (e : Event) (s : State) : Answer :=
  match e with
  | .tick => tick s
  | .timer60 => .next s.timer60
  | .reset => .next s.resetEvent
  | .load rom => .next (s.load rom)
  | .keySet k b => .next (s.keySet k b)
  | .redrawAck => .next s.redrawAck

/-- The oldest pending event, or a Tick where none is pending (log entry 1). -/
def advance (s : State) : Answer :=
  match s.pending with
  | [] => tick s
  | e :: rest => applyEvent e { s with pending := rest }

/-- Make the next step a Tick that fetches at a legal `pc`: nothing is pending, the core is RUNNING,
and a `pc` that cannot be fetched from is 0x200. -/
def State.readyToFetch (s : State) : State :=
  { s with
    pending := []
    fault := if s.fault.valid then FaultLatch.empty else s.fault
    pc := if s.pcOutOfRange || misaligned s.pc then 0x200 else s.pc }

/-- Store an instruction word at `pc`, high byte first. -/
def State.placeWord (s : State) (op : Word) : State :=
  s.writeBytes s.pc.toNat [firstByte op, secondByte op]

/-- The state whose next step runs the instruction of the table's `nbits` bits `w`. -/
def State.withTableWord (s : State) (nbits w : Nat) : State :=
  s.readyToFetch.placeWord (BitVec.ofNat 16 (w % 2 ^ nbits))

end Sys2Proof.Machine
end

