-- ==== Sys2Proof/Machine/Step.lean ====
section
/-!
DEFINITION. One step of the machine.
-/

namespace Sys2Proof.Machine

/-- One step: the oldest pending event, or a Tick (60_exceptions.md R184, log entry 1). -/
def step (s : State) : Host.Outcome State Fault Refusal := advance s

/-- `s` with the instruction of the opcode table's `nbits` bits `w` where the next step fetches it
(log entry 9). -/
def State.withFetchWord (s : State) (nbits w : Nat) : State := s.withTableWord nbits w

end Sys2Proof.Machine
end

