-- ==== Sys2Proof/Safety.lean ====
section
/-!
DEFINITION. What holds of every state a run reaches (10_state.md R22), and the terms the statements
use: what an event leaves unchanged, what a fault leaves, and which pixels a sprite covers.
-/

namespace Sys2Proof.Machine

/-! ### The invariant -/

/-- `pc` is even (10_state.md R13, R22). -/
abbrev State.PcEven (s : State) : Prop := misaligned s.pc = false

/-- Memory is in canonical form: the representation invariant of the model. -/
abbrev State.MemWf (s : State) : Prop := Memory.wf s.cfg.font s.mem = true

/-- The live entries of the return stack are even and in 0x202..0x1000 (10_state.md R22). -/
def State.StackOk (s : State) : Prop :=
  ∀ k : Fin 16, k.val < s.sp.val →
    misaligned s.stack[k] = false ∧ 0x202 ≤ s.stack[k].toNat ∧ s.stack[k].toNat ≤ 0x1000

/-- The latch is empty, or it holds one of the cause codes 1..6 (10_state.md R20,
60_exceptions.md R160). -/
def State.LatchOk (s : State) : Prop :=
  (s.fault.valid = false → s.fault = FaultLatch.empty) ∧
  (s.fault.valid = true → 1 ≤ s.fault.cause.toNat ∧ s.fault.cause.toNat ≤ 6)

/-- The invariant of the reachable states (10_state.md R13, R22): `pc` is even and at most 0x10FE,
the live stack entries are return addresses, memory is in canonical form, lists existing addresses
only and holds the font at 0x050..0x09F, and the latch is empty or holds a cause. That memory is
canonical and lists existing addresses only is the model's own part (log entry 10). -/
def State.Inv (s : State) : Prop :=
  s.PcEven ∧ s.pc.toNat ≤ 0x10FE ∧ s.StackOk ∧ s.MemWf
  ∧ (∀ c ∈ s.mem, c.1 ≤ maxAddr)
  ∧ (∀ k : Fin 80, s.readByte (0x050 + k.val) = s.cfg.font[k])
  ∧ s.LatchOk

/-! ### What stays the same -/

/-- The parts of the state. -/
inductive Part where
  | regs | index | pc | stack | display | redraw | keypad | delayTimer | soundTimer | latch | memory
  | tickResult | loadResult | config | draws | pending
  deriving DecidableEq, Repr

/-- A part is the same in both states: every register reads the same, every byte of memory reads the
same, the depth and every slot of the stack are the same, and so on. -/
def Part.same : Part → State → State → Prop
  | .regs, s, t => ∀ r : Nibble, t.getV r = s.getV r
  | .index, s, t => t.i = s.i
  | .pc, s, t => t.pc = s.pc
  | .stack, s, t => t.sp = s.sp ∧ t.stack = s.stack
  | .display, s, t => t.fb = s.fb
  | .redraw, s, t => t.redraw = s.redraw
  | .keypad, s, t => t.keypad = s.keypad
  | .delayTimer, s, t => t.dt = s.dt
  | .soundTimer, s, t => t.st = s.st
  | .latch, s, t => t.fault = s.fault
  | .memory, s, t => ∀ a : Nat, t.readByte a = s.readByte a
  | .tickResult, s, t => t.tickResult = s.tickResult
  | .loadResult, s, t => t.loadResult = s.loadResult
  | .config, s, t => t.cfg = s.cfg
  | .draws, s, t => t.draws = s.draws
  | .pending, s, t => t.pending = s.pending

/-- Every part but the listed ones is the same in `t` as in `s`. -/
def SameBut (ps : List Part) (s t : State) : Prop := ∀ p : Part, p ∉ ps → p.same s t

/-- Every register but the listed ones is the same in `t` as in `s`. -/
def RegsSameBut (xs : List Nibble) (s t : State) : Prop :=
  ∀ r : Nibble, r ∉ xs → t.getV r = s.getV r

/-- Every byte outside the `n` bytes from `a` on reads in `t` as in `s`. -/
def MemorySameOutside (a n : Nat) (s t : State) : Prop :=
  ∀ c : Nat, c < a ∨ a + n ≤ c → t.readByte c = s.readByte c

/-- `t` is what the fault of that code leaves of the state `s` its instruction saw: `pc` is the
address of the instruction again, the latch and the Tick's result are written, and nothing else
(60_exceptions.md R162, R163). -/
def FaultTaken (code : BitVec 3) (op info : Word) (s t : State) : Prop :=
  t.pc = s.pc - 2 ∧ t.fault = ⟨true, code, s.pc - 2, op, info⟩ ∧ t.tickResult = .fault code
  ∧ SameBut [.pc, .latch, .tickResult] s t

/-- `t` differs from `s` at most in stack slots at or above the depth (10_state.md R14). -/
def SameButDeadSlots (s t : State) : Prop :=
  t = { s with stack := t.stack } ∧ ∀ k : Fin 16, k.val < s.sp.val → t.stack[k] = s.stack[k]

/-! ### Sprites -/

/-- A set bit of the `n`-row sprite at `I`, drawn at column `x0`, row `y0`, lands on the pixel at
column `px`, row `py` (43_random_draw.md R122, R123). -/
def SpriteCovers (s : State) (x0 y0 n px py : Nat) : Prop :=
  ∃ row col : Nat, row < n ∧ col < 8
    ∧ (s.readByte (s.i.toNat + row)).getLsbD (7 - col) = true
    ∧ if s.cfg.drawWrap then px = (x0 + col) % 64 ∧ py = (y0 + row) % 32
      else px = x0 + col ∧ py = y0 + row

end Sys2Proof.Machine
end

