-- ==== Sys2Proof/Certificates/Slice0/Obligations.lean ====
section
/-!
DEFINITION. The statements for the provers. In a statement about `exec`, `s` is the state after the
fetch, so `s.pc` is `ia + 2` (30_encoding.md R62). A clause `decodeWord (…) = .instr …` states the
instruction's encoding as its rule gives it. A frame (`SameBut`) says of the model's own parts too,
`draws` and `pending` (log entries 5 and 1), that they are kept, unless it lists them.
-/

open Sys2Proof Sys2Proof.Machine

/-! ### Encoding -/

/-- Words written out from the encodings of 30_encoding.md R65, one or more for every family, decode
to the instruction they stand for; `0x5121` is unknown (R66). -/
def Obligations.SampleWordsDecode : Prop :=
  decodeWord 0x00E0 = .instr .cls ∧ decodeWord 0x00EE = .instr .ret
  ∧ decodeWord 0x1208 = .instr (.jp 0x208) ∧ decodeWord 0x2204 = .instr (.call 0x204)
  ∧ decodeWord 0xB300 = .instr (.jpV0 0x300)
  ∧ decodeWord 0x4310 = .instr (.sneImm 3 0x10) ∧ decodeWord 0x9120 = .instr (.sneReg 1 2)
  ∧ decodeWord 0xE59E = .instr (.skp 5) ∧ decodeWord 0xE5A1 = .instr (.sknp 5)
  ∧ decodeWord 0x6005 = .instr (.ldImm 0 5) ∧ decodeWord 0x8F14 = .instr (.addReg 0xF 1)
  ∧ decodeWord 0x812E = .instr (.shl 1 2) ∧ decodeWord 0xC00F = .instr (.rnd 0 0x0F)
  ∧ decodeWord 0xD345 = .instr (.drw 3 4 5) ∧ decodeWord 0xF10A = .instr (.ldVxK 1)
  ∧ decodeWord 0xF215 = .instr (.ldDtVx 2) ∧ decodeWord 0xA20A = .instr (.ldI 0x20A)
  ∧ decodeWord 0xF033 = .instr (.ldB 0) ∧ decodeWord 0xF265 = .instr (.loadRegs 2)
  ∧ decodeWord 0x0123 = .instr (.sys 0x123) ∧ decodeWord 0x5121 = .unknown 0x5121

/-- Decoding the word of a well-formed instruction gives the instruction back, with every operand at
every value its field admits (30_encoding.md R61, R64, R65). -/
def Obligations.EncodedInstructionDecodesBack : Prop :=
  ∀ i : Instr, i.wellFormed = true → decodeWord (encode i) = .instr i

/-- A word that decodes to an instruction decodes to a well-formed one, and is its encoding: each
word has one meaning (30_encoding.md R64). So the word a fault latches is the word fetched. -/
def Obligations.DecodedWordIsTheEncoding : Prop :=
  ∀ (op : Word) (i : Instr), decodeWord op = .instr i → i.wellFormed = true ∧ encode i = op

/-- The unknown space of 30_encoding.md R66, which counts the SYS space in it: a word is unknown or
SYS exactly where R66's table says. The spec marks the table as derived from R65. -/
def Obligations.UnknownSpaceIsExact : Prop :=
  ∀ op : Word,
    (decodeWord op = .unknown op ∨ ∃ nnn, decodeWord op = .instr (.sys nnn)) ↔
      (fieldClass op = 0x0 ∧ fieldNNN op ≠ 0x0E0 ∧ fieldNNN op ≠ 0x0EE)
      ∨ (fieldClass op = 0x5 ∧ fieldN op ≠ 0)
      ∨ (fieldClass op = 0x8 ∧ fieldN op ∈ [0x8#4, 0x9#4, 0xA#4, 0xB#4, 0xC#4, 0xD#4, 0xF#4])
      ∨ (fieldClass op = 0x9 ∧ fieldN op ≠ 0)
      ∨ (fieldClass op = 0xE ∧ fieldNN op ∉ [0x9E#8, 0xA1#8])
      ∨ (fieldClass op = 0xF ∧ fieldNN op ∉
          [0x07#8, 0x0A#8, 0x15#8, 0x18#8, 0x1E#8, 0x29#8, 0x33#8, 0x55#8, 0x65#8])

/-! ### Load, arithmetic, logic, shift (42_arith_logic_shift.md) -/

/-- R101: LD Vx,NN. -/
def Obligations.LoadImmediateSetsVx : Prop :=
  ∀ (x : Nibble) (nn : Byte) (s : State),
    decodeWord (0x6#4 ++ x ++ nn) = .instr (.ldImm x nn) ∧
    ∃ t, exec (.ldImm x nn) s = .next t ∧ t.getV x = nn
      ∧ RegsSameBut [x] s t ∧ SameBut [.regs] s t

/-- R102: ADD Vx,NN wraps and writes no flag: every register but `V[X]`, `VF` among them, is
unchanged. -/
def Obligations.AddImmediateWrapsWithoutFlag : Prop :=
  ∀ (x : Nibble) (nn : Byte) (s : State),
    decodeWord (0x7#4 ++ x ++ nn) = .instr (.addImm x nn) ∧
    ∃ t, exec (.addImm x nn) s = .next t
      ∧ (t.getV x).toNat = ((s.getV x).toNat + nn.toNat) % 256
      ∧ RegsSameBut [x] s t ∧ SameBut [.regs] s t

/-- R103 to R106: LD Vx,Vy, OR, AND, XOR write `V[X]` and nothing else; no flag. -/
def Obligations.CopyOrAndXorWriteVxOnly : Prop :=
  ∀ (x y : Nibble) (s : State),
    (decodeWord (0x8#4 ++ x ++ y ++ 0x0#4) = .instr (.ldReg x y) ∧
      ∃ t, exec (.ldReg x y) s = .next t ∧ t.getV x = s.getV y
        ∧ RegsSameBut [x] s t ∧ SameBut [.regs] s t) ∧
    (decodeWord (0x8#4 ++ x ++ y ++ 0x1#4) = .instr (.orReg x y) ∧
      ∃ t, exec (.orReg x y) s = .next t ∧ t.getV x = s.getV x ||| s.getV y
        ∧ RegsSameBut [x] s t ∧ SameBut [.regs] s t) ∧
    (decodeWord (0x8#4 ++ x ++ y ++ 0x2#4) = .instr (.andReg x y) ∧
      ∃ t, exec (.andReg x y) s = .next t ∧ t.getV x = s.getV x &&& s.getV y
        ∧ RegsSameBut [x] s t ∧ SameBut [.regs] s t) ∧
    (decodeWord (0x8#4 ++ x ++ y ++ 0x3#4) = .instr (.xorReg x y) ∧
      ∃ t, exec (.xorReg x y) s = .next t ∧ t.getV x = s.getV x ^^^ s.getV y
        ∧ RegsSameBut [x] s t ∧ SameBut [.regs] s t)

/-- R107 with the flag last (R100, the spec's decision D16): `VF` is the carry for every `X`, and
`V[X]` is the sum where `X` is not 0xF. -/
def Obligations.AddRegistersSetsCarryLast : Prop :=
  ∀ (x y : Nibble) (s : State),
    decodeWord (0x8#4 ++ x ++ y ++ 0x4#4) = .instr (.addReg x y) ∧
    ∃ t, exec (.addReg x y) s = .next t
      ∧ t.getV 0xF = (if (s.getV x).toNat + (s.getV y).toNat > 255 then 1 else 0)
      ∧ (x ≠ 0xF → (t.getV x).toNat = ((s.getV x).toNat + (s.getV y).toNat) % 256)
      ∧ RegsSameBut [x, 0xF] s t ∧ SameBut [.regs] s t

/-- R108 and R110 with the flag last (R100, D16): SUB and SUBN. -/
def Obligations.SubtractionsSetNotBorrowLast : Prop :=
  ∀ (x y : Nibble) (s : State),
    (decodeWord (0x8#4 ++ x ++ y ++ 0x5#4) = .instr (.sub x y) ∧
      ∃ t, exec (.sub x y) s = .next t
        ∧ t.getV 0xF = (if (s.getV x).toNat ≥ (s.getV y).toNat then 1 else 0)
        ∧ (x ≠ 0xF → (t.getV x).toNat = ((s.getV x).toNat + 256 - (s.getV y).toNat) % 256)
        ∧ RegsSameBut [x, 0xF] s t ∧ SameBut [.regs] s t) ∧
    (decodeWord (0x8#4 ++ x ++ y ++ 0x7#4) = .instr (.subn x y) ∧
      ∃ t, exec (.subn x y) s = .next t
        ∧ t.getV 0xF = (if (s.getV y).toNat ≥ (s.getV x).toNat then 1 else 0)
        ∧ (x ≠ 0xF → (t.getV x).toNat = ((s.getV y).toNat + 256 - (s.getV x).toNat) % 256)
        ∧ RegsSameBut [x, 0xF] s t ∧ SameBut [.regs] s t)

/-- R109: SHR, with the source register of the parameter `SHIFT_SOURCE_VY` (D17). -/
def Obligations.ShiftRightMovesBitZeroToVF : Prop :=
  ∀ (x y : Nibble) (s : State),
    decodeWord (0x8#4 ++ x ++ y ++ 0x6#4) = .instr (.shr x y) ∧
    ∃ t, exec (.shr x y) s = .next t
      ∧ (let src := if s.cfg.shiftSourceVy then s.getV y else s.getV x
         (t.getV 0xF).toNat = src.toNat % 2 ∧ (x ≠ 0xF → (t.getV x).toNat = src.toNat / 2))
      ∧ RegsSameBut [x, 0xF] s t ∧ SameBut [.regs] s t

/-- R111: SHL, with the source register of the parameter `SHIFT_SOURCE_VY` (D17). -/
def Obligations.ShiftLeftMovesBitSevenToVF : Prop :=
  ∀ (x y : Nibble) (s : State),
    decodeWord (0x8#4 ++ x ++ y ++ 0xE#4) = .instr (.shl x y) ∧
    ∃ t, exec (.shl x y) s = .next t
      ∧ (let src := if s.cfg.shiftSourceVy then s.getV y else s.getV x
         (t.getV 0xF).toNat = src.toNat / 128 ∧ (x ≠ 0xF → (t.getV x).toNat = src.toNat * 2 % 256))
      ∧ RegsSameBut [x, 0xF] s t ∧ SameBut [.regs] s t

/-! ### Skips (41_skip.md) -/

/-- R91, R92: SE Vx,NN and SNE Vx,NN change `pc` alone. -/
def Obligations.ImmediateSkipsMovePcOnly : Prop :=
  ∀ (x : Nibble) (nn : Byte) (s : State),
    (decodeWord (0x3#4 ++ x ++ nn) = .instr (.seImm x nn) ∧
      ∃ t, exec (.seImm x nn) s = .next t
        ∧ t.pc = (if s.getV x = nn then s.pc + 2 else s.pc) ∧ SameBut [.pc] s t) ∧
    (decodeWord (0x4#4 ++ x ++ nn) = .instr (.sneImm x nn) ∧
      ∃ t, exec (.sneImm x nn) s = .next t
        ∧ t.pc = (if s.getV x = nn then s.pc else s.pc + 2) ∧ SameBut [.pc] s t)

/-- R93, R94: SE Vx,Vy and SNE Vx,Vy change `pc` alone. -/
def Obligations.RegisterSkipsMovePcOnly : Prop :=
  ∀ (x y : Nibble) (s : State),
    (decodeWord (0x5#4 ++ x ++ y ++ 0x0#4) = .instr (.seReg x y) ∧
      ∃ t, exec (.seReg x y) s = .next t
        ∧ t.pc = (if s.getV x = s.getV y then s.pc + 2 else s.pc) ∧ SameBut [.pc] s t) ∧
    (decodeWord (0x9#4 ++ x ++ y ++ 0x0#4) = .instr (.sneReg x y) ∧
      ∃ t, exec (.sneReg x y) s = .next t
        ∧ t.pc = (if s.getV x = s.getV y then s.pc else s.pc + 2) ∧ SameBut [.pc] s t)

/-- R95, R96: SKP and SKNP test the key of the low nibble of `V[X]` (10_state.md R24, the spec's
decision D22) and change `pc` alone. -/
def Obligations.KeySkipsTestLowNibbleKey : Prop :=
  ∀ (x : Nibble) (s : State) (k : Fin 16), k.val = (s.getV x).toNat % 16 →
    (decodeWord (0xE#4 ++ x ++ 0x9E#8) = .instr (.skp x) ∧
      ∃ t, exec (.skp x) s = .next t
        ∧ t.pc = (if s.keypad[k] = true then s.pc + 2 else s.pc) ∧ SameBut [.pc] s t) ∧
    (decodeWord (0xE#4 ++ x ++ 0xA1#8) = .instr (.sknp x) ∧
      ∃ t, exec (.sknp x) s = .next t
        ∧ t.pc = (if s.keypad[k] = true then s.pc else s.pc + 2) ∧ SameBut [.pc] s t)

/-! ### Control, jump, call (40_control_jump_call.md) -/

/-- R80: CLS. -/
def Obligations.ClearScreenBlanksAndRaisesRedraw : Prop :=
  decodeWord 0x00E0 = .instr .cls ∧
  ∀ s : State, ∃ t, exec .cls s = .next t
    ∧ (∀ x y : Nat, x < 64 → y < 32 → pixel t.fb x y = false) ∧ t.redraw = true
    ∧ SameBut [.display, .redraw] s t

/-- R81: RET pops the topmost entry into `pc`, the popped slot keeps its value, and an empty stack
is StackUnderflow (code 2, info 0). -/
def Obligations.ReturnPopsOrUnderflows : Prop :=
  decodeWord 0x00EE = .instr .ret ∧
  ∀ s : State,
    (∀ k : Fin 16, s.sp.val = k.val + 1 →
      ∃ t, exec .ret s = .next t ∧ t.sp.val = k.val ∧ t.pc = s.stack[k] ∧ t.stack = s.stack
        ∧ SameBut [.pc, .stack] s t) ∧
    (s.sp.val = 0 → ∃ t, exec .ret s = .next t ∧ FaultTaken 2 0x00EE 0 s t)

/-- R82: JP NNN goes to an even target; an odd one is PcMisaligned (code 5, info the target). -/
def Obligations.JumpGoesToEvenTarget : Prop :=
  ∀ (nnn : Addr12) (s : State),
    decodeWord (0x1#4 ++ nnn) = .instr (.jp nnn) ∧
    (nnn.toNat % 2 = 0 →
      ∃ t, exec (.jp nnn) s = .next t ∧ t.pc.toNat = nnn.toNat ∧ SameBut [.pc] s t) ∧
    (nnn.toNat % 2 = 1 →
      ∃ t, exec (.jp nnn) s = .next t ∧ FaultTaken 5 (0x1#4 ++ nnn) (nnn.setWidth 16) s t)

/-- R83: CALL NNN pushes `ia + 2` and goes to an even target; an odd target is PcMisaligned
(code 5), whatever the depth, and an even one at depth 16 is StackOverflow (code 1); the info is the
target. -/
def Obligations.CallPushesReturnAddress : Prop :=
  ∀ (nnn : Addr12) (s : State),
    decodeWord (0x2#4 ++ nnn) = .instr (.call nnn) ∧
    (∀ k : Fin 16, nnn.toNat % 2 = 0 → s.sp.val = k.val →
      ∃ t, exec (.call nnn) s = .next t ∧ t.pc.toNat = nnn.toNat ∧ t.sp.val = k.val + 1
        ∧ t.stack[k] = s.pc ∧ (∀ j : Fin 16, j ≠ k → t.stack[j] = s.stack[j])
        ∧ SameBut [.pc, .stack] s t) ∧
    (nnn.toNat % 2 = 1 →
      ∃ t, exec (.call nnn) s = .next t ∧ FaultTaken 5 (0x2#4 ++ nnn) (nnn.setWidth 16) s t) ∧
    (nnn.toNat % 2 = 0 → s.sp.val = 16 →
      ∃ t, exec (.call nnn) s = .next t ∧ FaultTaken 1 (0x2#4 ++ nnn) (nnn.setWidth 16) s t)

/-- R84: JP V0,NNN goes to `NNN + V[0]`, or to `NNN + V[X]` with `X = NNN[11:8]` where the parameter
`JUMP_OFFSET_VX` is true (D19); the sum is not reduced; an odd one is PcMisaligned. -/
def Obligations.OffsetJumpAddsRegister : Prop :=
  ∀ (nnn : Addr12) (s : State) (r : Nibble),
    r.toNat = (if s.cfg.jumpOffsetVx then nnn.toNat / 256 else 0) →
    decodeWord (0xB#4 ++ nnn) = .instr (.jpV0 nnn) ∧
    ((nnn.toNat + (s.getV r).toNat) % 2 = 0 →
      ∃ t, exec (.jpV0 nnn) s = .next t ∧ t.pc.toNat = nnn.toNat + (s.getV r).toNat
        ∧ SameBut [.pc] s t) ∧
    ((nnn.toNat + (s.getV r).toNat) % 2 = 1 →
      ∃ t, exec (.jpV0 nnn) s = .next t
        ∧ FaultTaken 5 (0xB#4 ++ nnn) (BitVec.ofNat 16 (nnn.toNat + (s.getV r).toNat)) s t)

/-- Property P2 of 95_test_vectors.md: a call at even `NNN` with room on the stack, then a return,
restores the `pc` after the call and the depth. -/
def Obligations.CallThenReturnComesBack : Prop :=
  ∀ (nnn : Addr12) (s : State), nnn.toNat % 2 = 0 → s.sp.val < 16 →
    ∃ t u, exec (.call nnn) s = .next t ∧ exec .ret t = .next u ∧ u.pc = s.pc ∧ u.sp = s.sp
      ∧ SameBut [.stack] s u

/-! ### Random and draw (43_random_draw.md) -/

/-- R120, R121: RND writes a free byte ANDed with `NN`; every bit clear in `NN` is clear in `V[X]`;
the byte is fresh, since the draw is counted. How the model holds the free byte and the counter is
its own choice (log entry 5). -/
def Obligations.RandomIsMasked : Prop :=
  ∀ (x : Nibble) (nn : Byte) (s : State),
    decodeWord (0xC#4 ++ x ++ nn) = .instr (.rnd x nn) ∧
    ∃ t, exec (.rnd x nn) s = .next t
      ∧ t.getV x = Config.drawByte s.draws &&& nn ∧ t.getV x &&& ~~~nn = 0
      ∧ t.draws = s.draws + 1
      ∧ RegsSameBut [x] s t ∧ SameBut [.regs, .draws] s t

/-- R122, R123: DRW, in clip and in wrap mode. Where the sprite lies in memory or has no rows, every
covered pixel is inverted and every other kept; `VF` is 1 iff a covered pixel was on, else 0;
`redraw` is set. A sprite that passes 0xFFF is AddressOverflow (code 3, info `I`) and draws
nothing. -/
def Obligations.DrawInvertsCoveredPixels : Prop :=
  ∀ (x y n : Nibble) (s : State),
    decodeWord (0xD#4 ++ x ++ y ++ n) = .instr (.drw x y n) ∧
    (n = 0 ∨ s.i.toNat + n.toNat ≤ 0x1000 →
      ∃ t, exec (.drw x y n) s = .next t
        ∧ (∀ px py : Nat, px < 64 → py < 32 →
            (SpriteCovers s (s.getV x).toNat (s.getV y).toNat n.toNat px py →
              pixel t.fb px py = !pixel s.fb px py) ∧
            (¬ SpriteCovers s (s.getV x).toNat (s.getV y).toNat n.toNat px py →
              pixel t.fb px py = pixel s.fb px py))
        ∧ (t.getV 0xF = 0 ∨ t.getV 0xF = 1)
        ∧ (t.getV 0xF = 1 ↔ ∃ px py : Nat, px < 64 ∧ py < 32 ∧ pixel s.fb px py = true
            ∧ SpriteCovers s (s.getV x).toNat (s.getV y).toNat n.toNat px py)
        ∧ t.redraw = true
        ∧ RegsSameBut [0xF] s t ∧ SameBut [.regs, .display, .redraw] s t) ∧
    (n ≠ 0 → 0x1000 < s.i.toNat + n.toNat →
      ∃ t, exec (.drw x y n) s = .next t ∧ FaultTaken 3 (0xD#4 ++ x ++ y ++ n) s.i s t)

/-- Property P5 of 95_test_vectors.md: drawing the same sprite twice at the same coordinates restores
the framebuffer, whatever it was. On an initially clear framebuffer the first draw leaves `VF` 0, and
the second sets it to 1 where a set pixel of the sprite lies inside the grid, else to 0. -/
def Obligations.DrawingTwiceRestoresDisplay : Prop :=
  ∀ (x y n : Nibble) (s t u : State),
    (n = 0 ∨ s.i.toNat + n.toNat ≤ 0x1000) →
    exec (.drw x y n) s = .next t → t.getV x = s.getV x → t.getV y = s.getV y →
    exec (.drw x y n) t = .next u →
    u.fb = s.fb ∧
    ((∀ px py : Nat, px < 64 → py < 32 → pixel s.fb px py = false) →
      t.getV 0xF = 0
      ∧ ((∃ px py : Nat, px < 64 ∧ py < 32
            ∧ SpriteCovers s (s.getV x).toNat (s.getV y).toNat n.toNat px py) → u.getV 0xF = 1)
      ∧ ((¬ ∃ px py : Nat, px < 64 ∧ py < 32
            ∧ SpriteCovers s (s.getV x).toNat (s.getV y).toNat n.toNat px py) → u.getV 0xF = 0))

/-! ### Timers and keys (44_keypad_timer.md) -/

/-- R130: LD Vx,DT. -/
def Obligations.ReadDelayTimerCopiesDT : Prop :=
  ∀ (x : Nibble) (s : State),
    decodeWord (0xF#4 ++ x ++ 0x07#8) = .instr (.ldVxDt x) ∧
    ∃ t, exec (.ldVxDt x) s = .next t ∧ t.getV x = s.dt
      ∧ RegsSameBut [x] s t ∧ SameBut [.regs] s t

/-- R131: LD Vx,K goes back to `ia` and changes nothing else while no key is pressed, and takes the
lowest pressed key (the spec's decision D24) when one is. -/
def Obligations.WaitForKeyTakesLowestKey : Prop :=
  ∀ (x : Nibble) (s : State),
    decodeWord (0xF#4 ++ x ++ 0x0A#8) = .instr (.ldVxK x) ∧
    ((∀ k : Fin 16, s.keypad[k] = false) →
      ∃ t, exec (.ldVxK x) s = .next t ∧ t.pc = s.pc - 2 ∧ SameBut [.pc] s t) ∧
    (∀ k : Fin 16, s.keypad[k] = true → (∀ j : Fin 16, j < k → s.keypad[j] = false) →
      ∃ t, exec (.ldVxK x) s = .next t ∧ (t.getV x).toNat = k.val
        ∧ RegsSameBut [x] s t ∧ SameBut [.regs] s t)

/-- R132, R133: LD DT,Vx and LD ST,Vx; the output `sound_on` follows at once. -/
def Obligations.WriteTimersCopyVx : Prop :=
  ∀ (x : Nibble) (s : State),
    (decodeWord (0xF#4 ++ x ++ 0x15#8) = .instr (.ldDtVx x) ∧
      ∃ t, exec (.ldDtVx x) s = .next t ∧ t.dt = s.getV x ∧ SameBut [.delayTimer] s t) ∧
    (decodeWord (0xF#4 ++ x ++ 0x18#8) = .instr (.ldStVx x) ∧
      ∃ t, exec (.ldStVx x) s = .next t ∧ t.st = s.getV x ∧ (t.soundOn = true ↔ s.getV x ≠ 0)
        ∧ SameBut [.soundTimer] s t)

/-! ### Index register and memory (45_index_memory.md, 20_memory.md) -/

/-- R140, R141, R142: LD I,NNN, ADD I,Vx (modulo 65536, no flag) and LD F,Vx (the low nibble, the
spec's decision D23) write `I` alone. -/
def Obligations.IndexInstructionsWriteIOnly : Prop :=
  (∀ (nnn : Addr12) (s : State),
    decodeWord (0xA#4 ++ nnn) = .instr (.ldI nnn) ∧
    ∃ t, exec (.ldI nnn) s = .next t ∧ t.i.toNat = nnn.toNat ∧ SameBut [.index] s t) ∧
  (∀ (x : Nibble) (s : State),
    (decodeWord (0xF#4 ++ x ++ 0x1E#8) = .instr (.addI x) ∧
      ∃ t, exec (.addI x) s = .next t
        ∧ t.i.toNat = (s.i.toNat + (s.getV x).toNat) % 65536 ∧ SameBut [.index] s t) ∧
    (decodeWord (0xF#4 ++ x ++ 0x29#8) = .instr (.ldF x) ∧
      ∃ t, exec (.ldF x) s = .next t
        ∧ t.i.toNat = 0x050 + 5 * ((s.getV x).toNat % 16) ∧ SameBut [.index] s t))

/-- R49, with R47 and R48 as the case of one byte: the range check of the `n` bytes from `I` on, in
unbounded arithmetic. An access past 0xFFF is AddressOverflow with `I`; a write that meets
0x050..0x09F is ProtectedWrite with the first protected address; anything else passes. -/
def Obligations.RangeCheckNamesTheFault : Prop :=
  ∀ (s : State) (n : Nat) (k : AccessKind), 1 ≤ n → n ≤ 16 →
    (0xFFF < s.i.toNat + n - 1 → s.checkRange n k = some (.addressOverflow, s.i)) ∧
    (s.i.toNat + n - 1 ≤ 0xFFF → k = .write → s.i.toNat ≤ 0x09F → 0x050 ≤ s.i.toNat + n - 1 →
      ∃ w : Word, s.checkRange n k = some (.protectedWrite, w)
        ∧ w.toNat = max s.i.toNat 0x050) ∧
    (s.i.toNat + n - 1 ≤ 0xFFF →
      (k = .read ∨ 0x09F < s.i.toNat ∨ s.i.toNat + n - 1 < 0x050) → s.checkRange n k = none)

/-- R143: LD B,Vx stores the three decimal digits of `V[X]` at `I`, `I + 1`, `I + 2`, and every other
byte of memory is kept; a range that passes 0xFFF is AddressOverflow (code 3, info `I`), one that
meets the font ProtectedWrite (code 6, info the first protected address), and nothing is written. -/
def Obligations.BcdStoresThreeDigits : Prop :=
  ∀ (x : Nibble) (s : State), s.MemWf →
    decodeWord (0xF#4 ++ x ++ 0x33#8) = .instr (.ldB x) ∧
    (s.i.toNat + 2 ≤ 0xFFF → (0x09F < s.i.toNat ∨ s.i.toNat + 2 < 0x050) →
      ∃ t, exec (.ldB x) s = .next t
        ∧ (t.readByte s.i.toNat).toNat = (s.getV x).toNat / 100
        ∧ (t.readByte (s.i.toNat + 1)).toNat = (s.getV x).toNat / 10 % 10
        ∧ (t.readByte (s.i.toNat + 2)).toNat = (s.getV x).toNat % 10
        ∧ MemorySameOutside s.i.toNat 3 s t ∧ SameBut [.memory] s t) ∧
    (0xFFF < s.i.toNat + 2 →
      ∃ t, exec (.ldB x) s = .next t ∧ FaultTaken 3 (0xF#4 ++ x ++ 0x33#8) s.i s t) ∧
    (s.i.toNat ≤ 0x09F → 0x050 ≤ s.i.toNat + 2 →
      ∃ t, exec (.ldB x) s = .next t
        ∧ FaultTaken 6 (0xF#4 ++ x ++ 0x33#8) (if s.i.toNat < 0x050 then 0x050 else s.i) s t)

/-- R144: LD [I],Vx stores `V[0]..V[X]` from `I` on and keeps every other byte of memory; `I` advances
by `X + 1` where the parameter `LOADSTORE_ADVANCES_I` is true (D18); the two faults write nothing. -/
def Obligations.BlockStoreCopiesRegisters : Prop :=
  ∀ (x : Nibble) (s : State), s.MemWf →
    decodeWord (0xF#4 ++ x ++ 0x55#8) = .instr (.storeRegs x) ∧
    (s.i.toNat + x.toNat ≤ 0xFFF → (0x09F < s.i.toNat ∨ s.i.toNat + x.toNat < 0x050) →
      ∃ t, exec (.storeRegs x) s = .next t
        ∧ (∀ k : Nibble, k.toNat ≤ x.toNat → t.readByte (s.i.toNat + k.toNat) = s.getV k)
        ∧ MemorySameOutside s.i.toNat (x.toNat + 1) s t
        ∧ t.i.toNat = (if s.cfg.loadStoreAdvancesI then s.i.toNat + x.toNat + 1 else s.i.toNat)
        ∧ SameBut [.memory, .index] s t) ∧
    (0xFFF < s.i.toNat + x.toNat →
      ∃ t, exec (.storeRegs x) s = .next t ∧ FaultTaken 3 (0xF#4 ++ x ++ 0x55#8) s.i s t) ∧
    (s.i.toNat ≤ 0x09F → 0x050 ≤ s.i.toNat + x.toNat →
      ∃ t, exec (.storeRegs x) s = .next t
        ∧ FaultTaken 6 (0xF#4 ++ x ++ 0x55#8) (if s.i.toNat < 0x050 then 0x050 else s.i) s t)

/-- R145: LD Vx,[I] loads `V[0]..V[X]` from `I` on and keeps every other register; `I` advances as
for R144; AddressOverflow writes no register. -/
def Obligations.BlockLoadFillsRegisters : Prop :=
  ∀ (x : Nibble) (s : State),
    decodeWord (0xF#4 ++ x ++ 0x65#8) = .instr (.loadRegs x) ∧
    (s.i.toNat + x.toNat ≤ 0xFFF →
      ∃ t, exec (.loadRegs x) s = .next t
        ∧ (∀ k : Nibble, k.toNat ≤ x.toNat → t.getV k = s.readByte (s.i.toNat + k.toNat))
        ∧ (∀ k : Nibble, x.toNat < k.toNat → t.getV k = s.getV k)
        ∧ t.i.toNat = (if s.cfg.loadStoreAdvancesI then s.i.toNat + x.toNat + 1 else s.i.toNat)
        ∧ SameBut [.regs, .index] s t) ∧
    (0xFFF < s.i.toNat + x.toNat →
      ∃ t, exec (.loadRegs x) s = .next t ∧ FaultTaken 3 (0xF#4 ++ x ++ 0x65#8) s.i s t)

/-! ### Unknown opcodes (46_unknown_opcode.md) -/

/-- R150, R151: SYS NNN, and any unknown word, is a no-op whose Tick reports the word and its address
`ia`; nothing else changes, and there is no fault. -/
def Obligations.UnknownIsNoOpWithDiagnostic : Prop :=
  (∀ (nnn : Addr12) (s : State),
    (nnn ≠ 0x0E0 → nnn ≠ 0x0EE → decodeWord (0x0#4 ++ nnn) = .instr (.sys nnn)) ∧
    ∃ t, exec (.sys nnn) s = .next t ∧ t.tickResult = .okDiag (0x0#4 ++ nnn) (s.pc - 2)
      ∧ SameBut [.tickResult] s t) ∧
  (∀ (op : Word) (s : State),
    ∃ t, execDecoded (.unknown op) s = .next t ∧ t.tickResult = .okDiag op (s.pc - 2)
      ∧ SameBut [.tickResult] s t)

/-! ### Fetch and Tick (20_memory.md R46, 30_encoding.md R62, 60_exceptions.md) -/

/-- A Tick runs the decoded instruction: in a RUNNING core whose `pc` is even and in 0x200..0xFFE, a
step with nothing pending, or with a Tick the oldest pending event, is `exec` of the instruction that
the two bytes at `pc` decode to (the byte at the lower address high), at the state whose `pc` is
`ia + 2` and whose Tick result is Ok; where they decode to no instruction, it is the no-op of
46_unknown_opcode.md R150. `pending` is the model's own field (log entry 1). -/
def Obligations.StepRunsTheDecodedInstruction : Prop :=
  ∀ (s : State) (rest : List Event), s.fault.valid = false → 0x200 ≤ s.pc.toNat →
    s.pc.toNat ≤ 0xFFE → s.pc.toNat % 2 = 0 →
    (s.pending = [] ∧ rest = [] ∨ s.pending = .tick :: rest) →
    (∀ i : Instr,
      decodeBytes (s.readByte s.pc.toNat) (s.readByte (s.pc.toNat + 1)) = .instr i →
      step s = exec i { s with pc := s.pc + 2, tickResult := .ok, pending := rest }) ∧
    (∀ op : Word,
      decodeBytes (s.readByte s.pc.toNat) (s.readByte (s.pc.toNat + 1)) = .unknown op →
      step s = .next { s with pc := s.pc + 2, tickResult := .okDiag op s.pc, pending := rest })

/-- A Tick of a RUNNING core whose `pc` is outside 0x200..0xFFE takes PcOutOfRange: code 4, `fault_ia`
and info the value of `pc`, opcode 0; `pc` and everything else are kept (20_memory.md R46,
60_exceptions.md R160 to R163). The step is a Tick with nothing pending, and with a Tick the oldest
pending event, which it takes off `pending`: the model's own field (log entry 1). -/
def Obligations.FetchOutOfRangeFaults : Prop :=
  ∀ (s : State) (rest : List Event), s.fault.valid = false →
    (s.pc.toNat < 0x200 ∨ 0xFFE < s.pc.toNat) →
    (s.pending = [] ∧ rest = [] ∨ s.pending = .tick :: rest) →
    ∃ t, step s = .next t ∧ t.fault = ⟨true, 4, s.pc, 0, s.pc⟩ ∧ t.tickResult = .fault 4
      ∧ t.pending = rest ∧ SameBut [.latch, .tickResult, .pending] s t

/-- R164: a Tick of a FAULTED core answers its fault and changes no state, while the other events still
act and keep the latch: Timer60 counts the timers down, KeySet writes its key, RedrawAck clears
`redraw`, and Load writes memory and `pc` without restarting the core. -/
def Obligations.FaultedCoreHaltsButEventsAct : Prop :=
  ∀ s : State, s.fault.valid = true →
    (∃ t, tick s = .next t ∧ t.tickResult = .fault s.fault.cause ∧ SameBut [.tickResult] s t) ∧
    (∃ t, applyEvent .timer60 s = .next t ∧ t.fault = s.fault
      ∧ t.dt.toNat = s.dt.toNat - 1 ∧ t.st.toNat = s.st.toNat - 1) ∧
    (∀ (k : Fin 16) (b : Bool), ∃ t, applyEvent (.keySet k b) s = .next t ∧ t.fault = s.fault
      ∧ t.keypad[k] = b) ∧
    (∃ t, applyEvent .redrawAck s = .next t ∧ t.fault = s.fault ∧ t.redraw = false) ∧
    (∀ rom : List Byte, s.MemWf → rom.length ≤ 3584 →
      ∃ t, applyEvent (.load rom) s = .next t ∧ t.fault = s.fault ∧ t.pc = 0x200
        ∧ ∀ k : Nat, k < rom.length → rom[k]? = some (t.readByte (0x200 + k)))

/-- The latch keeps the first fault until Reset: no event but Reset changes the latch of a FAULTED
core, and Reset clears it (60_exceptions.md R164, R165). -/
def Obligations.OnlyResetLeavesFaulted : Prop :=
  ∀ (e : Event) (s t : State), s.fault.valid = true → applyEvent e s = .next t →
    (e ≠ .reset → t.fault = s.fault) ∧ (e = .reset → t.fault = FaultLatch.empty)

/-- Faults are precise: a Tick after which a RUNNING core is FAULTED has changed the latch and the
Tick's result and nothing else; `fault_ia` is the `pc` it started at, and `fault_opcode` the word
fetched there, or 0 for PcOutOfRange (60_exceptions.md R162, R163). -/
def Obligations.FaultingTickCommitsNothing : Prop :=
  ∀ s t : State, s.fault.valid = false → tick s = .next t → t.fault.valid = true →
    SameBut [.latch, .tickResult] s t
    ∧ t.fault.ia = s.pc
    ∧ t.fault.opcode =
        (if t.fault.cause = 4 then 0
         else wordOfBytes (s.readByte s.pc.toNat) (s.readByte (s.pc.toNat + 1)))
    ∧ t.tickResult = .fault t.fault.cause
    ∧ 1 ≤ t.fault.cause.toNat ∧ t.fault.cause.toNat ≤ 6

/-- Only the six conditions of 60_exceptions.md R160 fault, each with its code and its info: where a
Tick leaves a RUNNING core FAULTED, the latch's cause is one of the six, and the word fetched, the
stack depth, `pc` or `I` are as R160's table says for it. -/
def Obligations.OnlyTheSixConditionsFault : Prop :=
  ∀ (s t : State) (op : Word), s.fault.valid = false → tick s = .next t → t.fault.valid = true →
    op = wordOfBytes (s.readByte s.pc.toNat) (s.readByte (s.pc.toNat + 1)) →
    (t.fault.cause = 1 ∧ fieldClass op = 0x2 ∧ s.sp.val = 16
      ∧ t.fault.info.toNat = (fieldNNN op).toNat) ∨
    (t.fault.cause = 2 ∧ op = 0x00EE ∧ s.sp.val = 0 ∧ t.fault.info = 0) ∨
    (t.fault.cause = 3 ∧ t.fault.info = s.i
      ∧ ((fieldClass op = 0xD ∧ 0 < (fieldN op).toNat ∧ 0xFFF < s.i.toNat + (fieldN op).toNat - 1)
        ∨ (fieldClass op = 0xF ∧ fieldNN op = 0x33 ∧ 0xFFF < s.i.toNat + 2)
        ∨ (fieldClass op = 0xF ∧ (fieldNN op = 0x55 ∨ fieldNN op = 0x65)
          ∧ 0xFFF < s.i.toNat + (fieldX op).toNat))) ∨
    (t.fault.cause = 4 ∧ (s.pc.toNat < 0x200 ∨ 0xFFE < s.pc.toNat) ∧ t.fault.info = s.pc) ∨
    (t.fault.cause = 5 ∧ t.fault.info.toNat % 2 = 1
      ∧ (((fieldClass op = 0x1 ∨ fieldClass op = 0x2) ∧ t.fault.info.toNat = (fieldNNN op).toNat)
        ∨ (fieldClass op = 0xB ∧ t.fault.info.toNat = (fieldNNN op).toNat
            + (s.getV (if s.cfg.jumpOffsetVx then fieldX op else 0)).toNat))) ∨
    (t.fault.cause = 6 ∧ fieldClass op = 0xF ∧ s.i.toNat ≤ 0x09F
      ∧ t.fault.info.toNat = max s.i.toNat 0x050
      ∧ ((fieldNN op = 0x33 ∧ 0x050 ≤ s.i.toNat + 2)
        ∨ (fieldNN op = 0x55 ∧ 0x050 ≤ s.i.toNat + (fieldX op).toNat)))

/-- A word placed where the next step fetches is what the next step runs: a store is seen by the next
fetch (20_memory.md R54). The placing operation is the model's (log entry 9). -/
def Obligations.PlacedWordRunsNext : Prop :=
  ∀ (s : State) (op : Word), s.MemWf →
    step (s.withFetchWord 16 op.toNat)
      = execDecoded (decodeWord op) (s.withFetchWord 16 op.toNat).afterFetch

/-! ### The other events (60_exceptions.md, 70_reset_and_hazards.md) -/

/-- R180: Timer60 counts each timer down by 1 and not below 0. -/
def Obligations.Timer60CountsBothDown : Prop :=
  ∀ s : State, ∃ t, applyEvent .timer60 s = .next t
    ∧ t.dt.toNat = s.dt.toNat - 1 ∧ t.st.toNat = s.st.toNat - 1
    ∧ SameBut [.delayTimer, .soundTimer] s t

/-- A run of `n` Timer60 events takes `n` off each timer, and stops at 0 (60_exceptions.md R180;
the liveness half of R182's fairness). -/
def Obligations.TimersRunDownToZero : Prop :=
  ∀ (n : Nat) (s : State),
    ((State.timer60^[n]) s).dt.toNat = s.dt.toNat - n ∧
    ((State.timer60^[n]) s).st.toNat = s.st.toNat - n

/-- R185: Load copies at most 3584 bytes from 0x200 on, sets `pc` to 0x200 and changes nothing else;
a longer ROM is LoadTooLarge and changes no state. -/
def Obligations.LoadCopiesRomOrRejects : Prop :=
  ∀ (s : State) (rom : List Byte), s.MemWf →
    (rom.length ≤ 3584 →
      ∃ t, applyEvent (.load rom) s = .next t ∧ t.pc = 0x200 ∧ t.loadResult = .ok
        ∧ (∀ k : Nat, k < rom.length → rom[k]? = some (t.readByte (0x200 + k)))
        ∧ MemorySameOutside 0x200 rom.length s t
        ∧ SameBut [.pc, .memory, .loadResult] s t) ∧
    (3584 < rom.length →
      ∃ t, applyEvent (.load rom) s = .next t ∧ t.loadResult = .loadTooLarge
        ∧ SameBut [.loadResult] s t)

/-- R186, R187: KeySet writes one key flag; RedrawAck clears `redraw`. -/
def Obligations.HostEventsWriteTheirOneField : Prop :=
  (∀ (s : State) (k : Fin 16) (b : Bool), ∃ t, applyEvent (.keySet k b) s = .next t
    ∧ t.keypad[k] = b ∧ (∀ j : Fin 16, j ≠ k → t.keypad[j] = s.keypad[j])
    ∧ SameBut [.keypad] s t) ∧
  (∀ s : State, ∃ t, applyEvent .redrawAck s = .next t ∧ t.redraw = false
    ∧ SameBut [.redraw] s t)

/-- R200: Reset, in every state, gives every piece of state its reset value and leaves the
configuration; memory is zero but for the font. That `draws` and
`pending` are kept is the model's choice (log entries 5 and 1), and so is what a byte above 0xFFF and
a pixel outside the grid read as (log entries 10 and 11). -/
def Obligations.ResetRestoresEverything : Prop :=
  ∀ s : State, ∃ t, applyEvent .reset s = .next t
    ∧ (∀ r, t.getV r = 0) ∧ t.i = 0 ∧ t.pc = 0x200 ∧ t.sp.val = 0
    ∧ (∀ k : Fin 16, t.stack[k] = 0)
    ∧ (∀ x y : Nat, pixel t.fb x y = false)
    ∧ (∀ k : Fin 16, t.keypad[k] = false)
    ∧ t.dt = 0 ∧ t.st = 0 ∧ t.redraw = false ∧ t.fault = ⟨false, 0, 0, 0, 0⟩
    ∧ (∀ k : Fin 80, t.readByte (0x050 + k.val) = s.cfg.font[k])
    ∧ (∀ a : Nat, a < 0x050 ∨ 0x09F < a → t.readByte a = 0)
    ∧ SameBut [.regs, .index, .pc, .stack, .display, .redraw, .keypad, .delayTimer, .soundTimer,
        .latch, .memory, .tickResult, .loadResult] s t

/-- The reset values of 10_state.md R23, in the machine's default configuration. What a byte above
0xFFF and a pixel outside the grid read as is the model's choice (log entries 10 and 11). -/
def Obligations.ResetStateHoldsTheSpecValues : Prop :=
  (∀ r, State.reset.getV r = 0) ∧ State.reset.i = 0 ∧ State.reset.pc = 0x200
  ∧ State.reset.sp.val = 0 ∧ (∀ k : Fin 16, State.reset.stack[k] = 0)
  ∧ (∀ x y : Nat, pixel State.reset.fb x y = false)
  ∧ (∀ k : Fin 16, State.reset.keypad[k] = false)
  ∧ State.reset.dt = 0 ∧ State.reset.st = 0 ∧ State.reset.redraw = false
  ∧ State.reset.fault = ⟨false, 0, 0, 0, 0⟩
  ∧ (∀ k : Fin 80, State.reset.readByte (0x050 + k.val) = State.reset.cfg.font[k])
  ∧ (∀ a : Nat, a < 0x050 ∨ 0x09F < a → State.reset.readByte a = 0)

/-- R15, R183: the framebuffer export is row-major, 64 columns, and `sound_on` is `ST != 0`. -/
def Obligations.OutputsShowDisplayAndSound : Prop :=
  ∀ s : State,
    (∀ (x : Fin 64) (y : Fin 32) (k : Fin 2048), k.val = 64 * y.val + x.val →
      s.fbExport k = s.fb[y][x]) ∧
    (s.soundOn = true ↔ s.st.toNat ≠ 0)

/-! ### The whole machine -/

/-- The invariant of 10_state.md R22 holds at reset. The spec marks R22's list as derived; that memory
is canonical and lists existing addresses only is the model's own part of it (log entry 10). -/
def Obligations.InvariantHoldsAtReset : Prop := State.reset.Inv

/-- The invariant of 10_state.md R22 is kept by every step, from every state that meets it, whatever
is pending. The spec marks R22's list as derived; that memory is canonical
and lists existing addresses only is the model's own part of it (log entry 10). -/
def Obligations.EveryStepKeepsInvariant : Prop :=
  ∀ s t : State, s.Inv → step s = .next t → t.Inv

/-- From a state that meets the invariant every step answers a next state: the machine neither stops
nor refuses. The one stop, a fetch at an odd `pc`, is the model's choice (log entry 6).
The premise's part about memory is the model's own (log entry 10). -/
def Obligations.InvariantStatesAlwaysStep : Prop :=
  ∀ s : State, s.Inv → ∃ t, step s = .next t

/-- Every step keeps memory in canonical form, from every state whose memory is. The form is the
model's own (log entry 10). -/
def Obligations.EveryStepKeepsMemoryCanonical : Prop :=
  ∀ s t : State, s.MemWf → step s = .next t → t.MemWf

/-- Nothing but Reset changes the font's 80 bytes (20_memory.md R44), and nothing changes the
configuration (10_state.md R21), which the model holds in a field (log entry 2). -/
def Obligations.FontAndConfigAreImmutable : Prop :=
  ∀ (e : Event) (s t : State), s.MemWf → applyEvent e s = .next t →
    t.cfg = s.cfg ∧
    (e ≠ .reset → ∀ a : Nat, 0x050 ≤ a → a ≤ 0x09F → t.readByte a = s.readByte a)

/-- Which instructions write which state (10_state.md R12 to R21): `I`, the stack, the framebuffer,
`redraw` (set only), the timers and memory are written by the named instructions alone; the keypad,
the configuration, the Load result and the pending events (log entries 2, 4, 1) by none. -/
def Obligations.InstructionsWriteOnlyTheirState : Prop :=
  ∀ (i : Instr) (s t : State), exec i s = .next t →
    t.keypad = s.keypad ∧ t.cfg = s.cfg ∧ t.loadResult = s.loadResult ∧ t.pending = s.pending
    ∧ (t.i ≠ s.i → (∃ nnn, i = .ldI nnn)
        ∨ ∃ x, i = .addI x ∨ i = .ldF x ∨ i = .storeRegs x ∨ i = .loadRegs x)
    ∧ (t.sp ≠ s.sp ∨ t.stack ≠ s.stack → i = .ret ∨ ∃ nnn, i = .call nnn)
    ∧ (t.fb ≠ s.fb → i = .cls ∨ ∃ x y n, i = .drw x y n)
    ∧ (t.redraw ≠ s.redraw → t.redraw = true ∧ (i = .cls ∨ ∃ x y n, i = .drw x y n))
    ∧ (t.dt ≠ s.dt → ∃ x, i = .ldDtVx x)
    ∧ (t.st ≠ s.st → ∃ x, i = .ldStVx x)
    ∧ ((∃ a, t.readByte a ≠ s.readByte a) → ∃ x, i = .ldB x ∨ i = .storeRegs x)

/-- `VF` changes only by the six flag-writing instructions, or by an instruction whose destination
registers include it (10_state.md R10, R11). -/
def Obligations.FlagRegisterIsWrittenOnlyByItsWriters : Prop :=
  ∀ (i : Instr) (s t : State), exec i s = .next t → t.getV 0xF ≠ s.getV 0xF →
    (∃ x y, i = .addReg x y ∨ i = .sub x y ∨ i = .subn x y ∨ i = .shr x y ∨ i = .shl x y)
    ∨ (∃ x y n, i = .drw x y n)
    ∨ (∃ nn, i = .ldImm 0xF nn ∨ i = .addImm 0xF nn ∨ i = .rnd 0xF nn)
    ∨ (∃ y, i = .ldReg 0xF y ∨ i = .orReg 0xF y ∨ i = .andReg 0xF y ∨ i = .xorReg 0xF y)
    ∨ i = .ldVxDt 0xF ∨ i = .ldVxK 0xF ∨ i = .loadRegs 0xF

/-- Property P1 of 95_test_vectors.md: an instruction that is no transfer, no skip and no key wait,
and takes no fault, leaves `pc` at `ia + 2`. -/
def Obligations.StraightLineInstructionsKeepPc : Prop :=
  ∀ (i : Instr) (s t : State), exec i s = .next t → s.fault.valid = false →
    t.fault.valid = false → t.pc ≠ s.pc →
    i = .ret ∨ (∃ nnn, i = .jp nnn ∨ i = .call nnn ∨ i = .jpV0 nnn)
    ∨ (∃ x nn, i = .seImm x nn ∨ i = .sneImm x nn)
    ∨ (∃ x y, i = .seReg x y ∨ i = .sneReg x y)
    ∨ (∃ x, i = .skp x ∨ i = .sknp x ∨ i = .ldVxK x)

/-- The stack slots at or above the depth are not observable (10_state.md R14, the spec's decision
D30): two states that differ in them alone step alike, and differ in them alone afterwards. -/
def Obligations.DeadStackSlotsAreUnobservable : Prop :=
  ∀ s t : State, SameButDeadSlots s t →
    (∃ s' t', step s = .next s' ∧ step t = .next t' ∧ SameButDeadSlots s' t') ∨
    (∃ f, step s = .fault f ∧ step t = .fault f) ∨
    (∃ r, step s = .refused r ∧ step t = .refused r)

/-- No instruction reads the sound timer, the redraw flag or the fault latch (10_state.md R18 to R20):
replacing them changes nothing of what an instruction does. The Load result is an output of
60_exceptions.md R184 and R189; that it is a field, which no instruction reads or writes, is the
model's own part (log entry 4). Each of the four is afterwards what the instruction writes there
without the replacement, or it is kept in both runs. -/
def Obligations.OutputsAreInvisibleToInstructions : Prop :=
  ∀ (i : Instr) (s t : State) (st : Byte) (redraw : Bool) (latch : FaultLatch) (lr : LoadResult),
    exec i s = .next t →
    ∃ u, exec i { s with st := st, redraw := redraw, fault := latch, loadResult := lr } = .next u
      ∧ u.v = t.v ∧ u.i = t.i ∧ u.pc = t.pc ∧ u.sp = t.sp ∧ u.stack = t.stack ∧ u.fb = t.fb
      ∧ u.keypad = t.keypad ∧ u.dt = t.dt ∧ u.mem = t.mem ∧ u.cfg = t.cfg ∧ u.draws = t.draws
      ∧ u.pending = t.pending ∧ u.tickResult = t.tickResult
      ∧ (u.st = t.st ∨ u.st = st ∧ t.st = s.st)
      ∧ (u.redraw = t.redraw ∨ u.redraw = redraw ∧ t.redraw = s.redraw)
      ∧ (u.fault = t.fault ∨ u.fault = latch ∧ t.fault = s.fault)
      ∧ (u.loadResult = t.loadResult ∨ u.loadResult = lr ∧ t.loadResult = s.loadResult)

/-- A step performs exactly one event: the oldest pending one, whichever of the six it is, at the
state from which it alone is taken off; with none pending, a Tick (60_exceptions.md R184). That the
events to come stand in `pending` is the model's choice (log entry 1). -/
def Obligations.StepPerformsTheOldestEvent : Prop :=
  ∀ s : State,
    (∀ (e : Event) (rest : List Event), s.pending = e :: rest →
      step s = applyEvent e { s with pending := rest }) ∧
    (s.pending = [] → step s = tick s)

/-- The defaults of 00_scope.md R5 at reset: SHR and SHL shift `V[Y]`, block accesses advance `I`, JP V0
adds `V[0]`, DRW clips. The default font is the one 20_memory.md R44 gives from general knowledge,
which the model takes over (log entry 3): glyph `d` is the 5 bytes from 0x050 + 5 * d on. -/
def Obligations.ResetConfigurationHoldsTheDefaults : Prop :=
  State.reset.cfg.shiftSourceVy = true ∧ State.reset.cfg.loadStoreAdvancesI = true
  ∧ State.reset.cfg.jumpOffsetVx = false ∧ State.reset.cfg.drawWrap = false
  ∧ State.reset.readBytes 0x050 5 = [0xF0, 0x90, 0x90, 0x90, 0xF0]
  ∧ State.reset.readBytes 0x055 5 = [0x20, 0x60, 0x20, 0x20, 0x70]
  ∧ State.reset.readBytes 0x05A 5 = [0xF0, 0x10, 0xF0, 0x80, 0xF0]
  ∧ State.reset.readBytes 0x05F 5 = [0xF0, 0x10, 0xF0, 0x10, 0xF0]
  ∧ State.reset.readBytes 0x064 5 = [0x90, 0x90, 0xF0, 0x10, 0x10]
  ∧ State.reset.readBytes 0x069 5 = [0xF0, 0x80, 0xF0, 0x10, 0xF0]
  ∧ State.reset.readBytes 0x06E 5 = [0xF0, 0x80, 0xF0, 0x90, 0xF0]
  ∧ State.reset.readBytes 0x073 5 = [0xF0, 0x10, 0x20, 0x40, 0x40]
  ∧ State.reset.readBytes 0x078 5 = [0xF0, 0x90, 0xF0, 0x90, 0xF0]
  ∧ State.reset.readBytes 0x07D 5 = [0xF0, 0x90, 0xF0, 0x10, 0xF0]
  ∧ State.reset.readBytes 0x082 5 = [0xF0, 0x90, 0xF0, 0x90, 0x90]
  ∧ State.reset.readBytes 0x087 5 = [0xE0, 0x90, 0xE0, 0x90, 0xE0]
  ∧ State.reset.readBytes 0x08C 5 = [0xF0, 0x80, 0x80, 0x80, 0xF0]
  ∧ State.reset.readBytes 0x091 5 = [0xE0, 0x90, 0x90, 0x90, 0xE0]
  ∧ State.reset.readBytes 0x096 5 = [0xF0, 0x80, 0xF0, 0x80, 0xF0]
  ∧ State.reset.readBytes 0x09B 5 = [0xF0, 0x80, 0xF0, 0x80, 0x80]
end

