-- ==== Sys2Proof/Laws/Decode.lean ====
section
/-!
SUPPORT. The fields of a word of each format (30_encoding.md R61, R63), and that a word is its fields.
-/

namespace Sys2Proof

/-! ### The bits of each format -/

theorem bit_encNNN (c : Nibble) (nnn : Addr12) (k : Nat) :
    (encNNN c nnn).getLsbD k = if k < 12 then nnn.getLsbD k else c.getLsbD (k - 12) :=
  (BitVec.getLsbD_append (x := c) (y := nnn) (i := k)).trans (by simp)

theorem bit_encXNN (c x : Nibble) (nn : Byte) (k : Nat) :
    (encXNN c x nn).getLsbD k =
      if k < 8 then nn.getLsbD k else if k < 12 then x.getLsbD (k - 8) else c.getLsbD (k - 12) := by
  refine (BitVec.getLsbD_append (x := c ++ x) (y := nn) (i := k)).trans ?_
  rw [BitVec.getLsbD_append]
  simp only [Nat.sub_sub, show k - 8 < 4 ↔ k < 12 by omega]

theorem bit_encXYN (c x y n : Nibble) (k : Nat) :
    (encXYN c x y n).getLsbD k =
      if k < 4 then n.getLsbD k else if k < 8 then y.getLsbD (k - 4)
      else if k < 12 then x.getLsbD (k - 8) else c.getLsbD (k - 12) := by
  refine (BitVec.getLsbD_append (x := c ++ x ++ y) (y := n) (i := k)).trans ?_
  rw [BitVec.getLsbD_append, BitVec.getLsbD_append]
  simp only [Nat.sub_sub, show k - 4 < 4 ↔ k < 8 by omega, show k - (4 + 4) < 4 ↔ k < 12 by omega]

theorem bit_wordOfBytes (hi lo : Byte) (k : Nat) :
    (wordOfBytes hi lo).getLsbD k = if k < 8 then lo.getLsbD k else hi.getLsbD (k - 8) :=
  (BitVec.getLsbD_append (x := hi) (y := lo) (i := k)).trans (by simp)

/-! ### The fields of each format -/

theorem fieldClass_encNNN (c : Nibble) (nnn : Addr12) : fieldClass (encNNN c nnn) = c := by
  refine BitVec.eq_of_getLsbD_eq fun k hk => ?_
  simp only [fieldClass, BitVec.getLsbD_extractLsb', hk, bit_encNNN, decide_true, Bool.true_and]
  split_ifs <;> first | omega | (congr 1; omega)

theorem fieldNNN_encNNN (c : Nibble) (nnn : Addr12) : fieldNNN (encNNN c nnn) = nnn := by
  refine BitVec.eq_of_getLsbD_eq fun k hk => ?_
  simp only [fieldNNN, BitVec.getLsbD_extractLsb', hk, bit_encNNN, decide_true, Bool.true_and]
  split_ifs <;> first | omega | (congr 1; omega)

theorem fieldClass_encXNN (c x : Nibble) (nn : Byte) : fieldClass (encXNN c x nn) = c := by
  refine BitVec.eq_of_getLsbD_eq fun k hk => ?_
  simp only [fieldClass, BitVec.getLsbD_extractLsb', hk, bit_encXNN, decide_true, Bool.true_and]
  split_ifs <;> first | omega | (congr 1; omega)

theorem fieldX_encXNN (c x : Nibble) (nn : Byte) : fieldX (encXNN c x nn) = x := by
  refine BitVec.eq_of_getLsbD_eq fun k hk => ?_
  simp only [fieldX, BitVec.getLsbD_extractLsb', hk, bit_encXNN, decide_true, Bool.true_and]
  split_ifs <;> first | omega | (congr 1; omega)

theorem fieldNN_encXNN (c x : Nibble) (nn : Byte) : fieldNN (encXNN c x nn) = nn := by
  refine BitVec.eq_of_getLsbD_eq fun k hk => ?_
  simp only [fieldNN, BitVec.getLsbD_extractLsb', hk, bit_encXNN, decide_true, Bool.true_and]
  split_ifs <;> first | omega | (congr 1; omega)

theorem fieldClass_encXYN (c x y n : Nibble) : fieldClass (encXYN c x y n) = c := by
  refine BitVec.eq_of_getLsbD_eq fun k hk => ?_
  simp only [fieldClass, BitVec.getLsbD_extractLsb', hk, bit_encXYN, decide_true, Bool.true_and]
  split_ifs <;> first | omega | (congr 1; omega)

theorem fieldX_encXYN (c x y n : Nibble) : fieldX (encXYN c x y n) = x := by
  refine BitVec.eq_of_getLsbD_eq fun k hk => ?_
  simp only [fieldX, BitVec.getLsbD_extractLsb', hk, bit_encXYN, decide_true, Bool.true_and]
  split_ifs <;> first | omega | (congr 1; omega)

theorem fieldY_encXYN (c x y n : Nibble) : fieldY (encXYN c x y n) = y := by
  refine BitVec.eq_of_getLsbD_eq fun k hk => ?_
  simp only [fieldY, BitVec.getLsbD_extractLsb', hk, bit_encXYN, decide_true, Bool.true_and]
  split_ifs <;> first | omega | (congr 1; omega)

theorem fieldN_encXYN (c x y n : Nibble) : fieldN (encXYN c x y n) = n := by
  refine BitVec.eq_of_getLsbD_eq fun k hk => ?_
  simp only [fieldN, BitVec.getLsbD_extractLsb', hk, bit_encXYN, decide_true, Bool.true_and]
  split_ifs <;> first | omega | (congr 1; omega)

/-! ### A word is its fields -/

/-- A word is its class and `NNN`. -/
theorem encNNN_fields (op : Word) : encNNN (fieldClass op) (fieldNNN op) = op := by
  refine BitVec.eq_of_getLsbD_eq fun k hk => ?_
  simp only [bit_encNNN, fieldClass, fieldNNN, BitVec.getLsbD_extractLsb']
  split_ifs <;> rw [decide_eq_true (by omega), Bool.true_and] <;> congr 1 <;> omega

/-- A word is its class, `X` and `NN`. -/
theorem encXNN_fields (op : Word) : encXNN (fieldClass op) (fieldX op) (fieldNN op) = op := by
  refine BitVec.eq_of_getLsbD_eq fun k hk => ?_
  simp only [bit_encXNN, fieldClass, fieldX, fieldNN, BitVec.getLsbD_extractLsb']
  split_ifs <;> rw [decide_eq_true (by omega), Bool.true_and] <;> congr 1 <;> omega

/-- A word is its four nibbles. -/
theorem encXYN_fields (op : Word) : encXYN (fieldClass op) (fieldX op) (fieldY op) (fieldN op) = op := by
  refine BitVec.eq_of_getLsbD_eq fun k hk => ?_
  simp only [bit_encXYN, fieldClass, fieldX, fieldY, fieldN, BitVec.getLsbD_extractLsb']
  split_ifs <;> rw [decide_eq_true (by omega), Bool.true_and] <;> congr 1 <;> omega

/-- Storing a word high byte first and reading it back gives the word (20_memory.md R45). -/
theorem wordOfBytes_bytes (op : Word) : wordOfBytes (firstByte op) (secondByte op) = op := by
  refine BitVec.eq_of_getLsbD_eq fun k hk => ?_
  simp only [bit_wordOfBytes, firstByte, secondByte, BitVec.getLsbD_extractLsb']
  split_ifs <;> rw [decide_eq_true (by omega), Bool.true_and] <;> congr 1 <;> omega

end Sys2Proof
end

