-- ==== Sys2Proof/Laws/State.lean ====
section
/-!
SUPPORT. One lemma per field per update of the state: what the named operations write, and that they
write nothing else.
-/

namespace Sys2Proof.Machine

section setV
variable (s : State) (x : Nibble) (b : Byte)
@[simp] theorem State.setV_v : (s.setV x b).v = s.v.set x.toNat b x.isLt := rfl
@[simp] theorem State.setV_i : (s.setV x b).i = s.i := rfl
@[simp] theorem State.setV_pc : (s.setV x b).pc = s.pc := rfl
@[simp] theorem State.setV_sp : (s.setV x b).sp = s.sp := rfl
@[simp] theorem State.setV_stack : (s.setV x b).stack = s.stack := rfl
@[simp] theorem State.setV_fb : (s.setV x b).fb = s.fb := rfl
@[simp] theorem State.setV_keypad : (s.setV x b).keypad = s.keypad := rfl
@[simp] theorem State.setV_dt : (s.setV x b).dt = s.dt := rfl
@[simp] theorem State.setV_st : (s.setV x b).st = s.st := rfl
@[simp] theorem State.setV_redraw : (s.setV x b).redraw = s.redraw := rfl
@[simp] theorem State.setV_fault : (s.setV x b).fault = s.fault := rfl
@[simp] theorem State.setV_mem : (s.setV x b).mem = s.mem := rfl
@[simp] theorem State.setV_tickResult : (s.setV x b).tickResult = s.tickResult := rfl
@[simp] theorem State.setV_loadResult : (s.setV x b).loadResult = s.loadResult := rfl
@[simp] theorem State.setV_cfg : (s.setV x b).cfg = s.cfg := rfl
@[simp] theorem State.setV_draws : (s.setV x b).draws = s.draws := rfl
@[simp] theorem State.setV_pending : (s.setV x b).pending = s.pending := rfl
end setV

section setI
variable (s : State) (w : Word)
@[simp] theorem State.setI_v : (s.setI w).v = s.v := rfl
@[simp] theorem State.setI_i : (s.setI w).i = w := rfl
@[simp] theorem State.setI_pc : (s.setI w).pc = s.pc := rfl
@[simp] theorem State.setI_sp : (s.setI w).sp = s.sp := rfl
@[simp] theorem State.setI_stack : (s.setI w).stack = s.stack := rfl
@[simp] theorem State.setI_fb : (s.setI w).fb = s.fb := rfl
@[simp] theorem State.setI_keypad : (s.setI w).keypad = s.keypad := rfl
@[simp] theorem State.setI_dt : (s.setI w).dt = s.dt := rfl
@[simp] theorem State.setI_st : (s.setI w).st = s.st := rfl
@[simp] theorem State.setI_redraw : (s.setI w).redraw = s.redraw := rfl
@[simp] theorem State.setI_fault : (s.setI w).fault = s.fault := rfl
@[simp] theorem State.setI_mem : (s.setI w).mem = s.mem := rfl
@[simp] theorem State.setI_tickResult : (s.setI w).tickResult = s.tickResult := rfl
@[simp] theorem State.setI_loadResult : (s.setI w).loadResult = s.loadResult := rfl
@[simp] theorem State.setI_cfg : (s.setI w).cfg = s.cfg := rfl
@[simp] theorem State.setI_draws : (s.setI w).draws = s.draws := rfl
@[simp] theorem State.setI_pending : (s.setI w).pending = s.pending := rfl
end setI

section setPc
variable (s : State) (w : Word)
@[simp] theorem State.setPc_v : (s.setPc w).v = s.v := rfl
@[simp] theorem State.setPc_i : (s.setPc w).i = s.i := rfl
@[simp] theorem State.setPc_pc : (s.setPc w).pc = w := rfl
@[simp] theorem State.setPc_sp : (s.setPc w).sp = s.sp := rfl
@[simp] theorem State.setPc_stack : (s.setPc w).stack = s.stack := rfl
@[simp] theorem State.setPc_fb : (s.setPc w).fb = s.fb := rfl
@[simp] theorem State.setPc_keypad : (s.setPc w).keypad = s.keypad := rfl
@[simp] theorem State.setPc_dt : (s.setPc w).dt = s.dt := rfl
@[simp] theorem State.setPc_st : (s.setPc w).st = s.st := rfl
@[simp] theorem State.setPc_redraw : (s.setPc w).redraw = s.redraw := rfl
@[simp] theorem State.setPc_fault : (s.setPc w).fault = s.fault := rfl
@[simp] theorem State.setPc_mem : (s.setPc w).mem = s.mem := rfl
@[simp] theorem State.setPc_tickResult : (s.setPc w).tickResult = s.tickResult := rfl
@[simp] theorem State.setPc_loadResult : (s.setPc w).loadResult = s.loadResult := rfl
@[simp] theorem State.setPc_cfg : (s.setPc w).cfg = s.cfg := rfl
@[simp] theorem State.setPc_draws : (s.setPc w).draws = s.draws := rfl
@[simp] theorem State.setPc_pending : (s.setPc w).pending = s.pending := rfl
end setPc

section writeByte
variable (s : State) (a : Nat) (b : Byte)
@[simp] theorem State.writeByte_v : (s.writeByte a b).v = s.v := rfl
@[simp] theorem State.writeByte_i : (s.writeByte a b).i = s.i := rfl
@[simp] theorem State.writeByte_pc : (s.writeByte a b).pc = s.pc := rfl
@[simp] theorem State.writeByte_sp : (s.writeByte a b).sp = s.sp := rfl
@[simp] theorem State.writeByte_stack : (s.writeByte a b).stack = s.stack := rfl
@[simp] theorem State.writeByte_fb : (s.writeByte a b).fb = s.fb := rfl
@[simp] theorem State.writeByte_keypad : (s.writeByte a b).keypad = s.keypad := rfl
@[simp] theorem State.writeByte_dt : (s.writeByte a b).dt = s.dt := rfl
@[simp] theorem State.writeByte_st : (s.writeByte a b).st = s.st := rfl
@[simp] theorem State.writeByte_redraw : (s.writeByte a b).redraw = s.redraw := rfl
@[simp] theorem State.writeByte_fault : (s.writeByte a b).fault = s.fault := rfl
@[simp] theorem State.writeByte_mem : (s.writeByte a b).mem = cellWrite s.cfg.font s.mem a b := rfl
@[simp] theorem State.writeByte_tickResult : (s.writeByte a b).tickResult = s.tickResult := rfl
@[simp] theorem State.writeByte_loadResult : (s.writeByte a b).loadResult = s.loadResult := rfl
@[simp] theorem State.writeByte_cfg : (s.writeByte a b).cfg = s.cfg := rfl
@[simp] theorem State.writeByte_draws : (s.writeByte a b).draws = s.draws := rfl
@[simp] theorem State.writeByte_pending : (s.writeByte a b).pending = s.pending := rfl
end writeByte

section takeFault
variable (s : State) (c : FaultCause) (ia op info : Word)
@[simp] theorem State.takeFault_v : (s.takeFault c ia op info).v = s.v := rfl
@[simp] theorem State.takeFault_i : (s.takeFault c ia op info).i = s.i := rfl
@[simp] theorem State.takeFault_pc : (s.takeFault c ia op info).pc = ia := rfl
@[simp] theorem State.takeFault_sp : (s.takeFault c ia op info).sp = s.sp := rfl
@[simp] theorem State.takeFault_stack : (s.takeFault c ia op info).stack = s.stack := rfl
@[simp] theorem State.takeFault_fb : (s.takeFault c ia op info).fb = s.fb := rfl
@[simp] theorem State.takeFault_keypad : (s.takeFault c ia op info).keypad = s.keypad := rfl
@[simp] theorem State.takeFault_dt : (s.takeFault c ia op info).dt = s.dt := rfl
@[simp] theorem State.takeFault_st : (s.takeFault c ia op info).st = s.st := rfl
@[simp] theorem State.takeFault_redraw : (s.takeFault c ia op info).redraw = s.redraw := rfl
@[simp] theorem State.takeFault_fault : (s.takeFault c ia op info).fault = ⟨true, c.code, ia, op, info⟩ := rfl
@[simp] theorem State.takeFault_mem : (s.takeFault c ia op info).mem = s.mem := rfl
@[simp] theorem State.takeFault_tickResult : (s.takeFault c ia op info).tickResult = .fault c.code := rfl
@[simp] theorem State.takeFault_loadResult : (s.takeFault c ia op info).loadResult = s.loadResult := rfl
@[simp] theorem State.takeFault_cfg : (s.takeFault c ia op info).cfg = s.cfg := rfl
@[simp] theorem State.takeFault_draws : (s.takeFault c ia op info).draws = s.draws := rfl
@[simp] theorem State.takeFault_pending : (s.takeFault c ia op info).pending = s.pending := rfl
end takeFault

section diag
variable (s : State) (op : Word)
@[simp] theorem State.diag_v : (s.diag op).v = s.v := rfl
@[simp] theorem State.diag_i : (s.diag op).i = s.i := rfl
@[simp] theorem State.diag_pc : (s.diag op).pc = s.pc := rfl
@[simp] theorem State.diag_sp : (s.diag op).sp = s.sp := rfl
@[simp] theorem State.diag_stack : (s.diag op).stack = s.stack := rfl
@[simp] theorem State.diag_fb : (s.diag op).fb = s.fb := rfl
@[simp] theorem State.diag_keypad : (s.diag op).keypad = s.keypad := rfl
@[simp] theorem State.diag_dt : (s.diag op).dt = s.dt := rfl
@[simp] theorem State.diag_st : (s.diag op).st = s.st := rfl
@[simp] theorem State.diag_redraw : (s.diag op).redraw = s.redraw := rfl
@[simp] theorem State.diag_fault : (s.diag op).fault = s.fault := rfl
@[simp] theorem State.diag_mem : (s.diag op).mem = s.mem := rfl
@[simp] theorem State.diag_tickResult : (s.diag op).tickResult = .okDiag op (s.pc - 2) := rfl
@[simp] theorem State.diag_loadResult : (s.diag op).loadResult = s.loadResult := rfl
@[simp] theorem State.diag_cfg : (s.diag op).cfg = s.cfg := rfl
@[simp] theorem State.diag_draws : (s.diag op).draws = s.draws := rfl
@[simp] theorem State.diag_pending : (s.diag op).pending = s.pending := rfl
end diag

section display
variable (s : State) (fb : Framebuffer)
@[simp] theorem State.display_v : (s.display fb).v = s.v := rfl
@[simp] theorem State.display_i : (s.display fb).i = s.i := rfl
@[simp] theorem State.display_pc : (s.display fb).pc = s.pc := rfl
@[simp] theorem State.display_sp : (s.display fb).sp = s.sp := rfl
@[simp] theorem State.display_stack : (s.display fb).stack = s.stack := rfl
@[simp] theorem State.display_fb : (s.display fb).fb = fb := rfl
@[simp] theorem State.display_keypad : (s.display fb).keypad = s.keypad := rfl
@[simp] theorem State.display_dt : (s.display fb).dt = s.dt := rfl
@[simp] theorem State.display_st : (s.display fb).st = s.st := rfl
@[simp] theorem State.display_redraw : (s.display fb).redraw = true := rfl
@[simp] theorem State.display_fault : (s.display fb).fault = s.fault := rfl
@[simp] theorem State.display_mem : (s.display fb).mem = s.mem := rfl
@[simp] theorem State.display_tickResult : (s.display fb).tickResult = s.tickResult := rfl
@[simp] theorem State.display_loadResult : (s.display fb).loadResult = s.loadResult := rfl
@[simp] theorem State.display_cfg : (s.display fb).cfg = s.cfg := rfl
@[simp] theorem State.display_draws : (s.display fb).draws = s.draws := rfl
@[simp] theorem State.display_pending : (s.display fb).pending = s.pending := rfl
end display

section setResultFlag
variable (s : State) (x : Nibble) (r f : Byte)
@[simp] theorem State.setResultFlag_v : (s.setResultFlag x r f).v = (s.v.set x.toNat r x.isLt).set vf.toNat f vf.isLt := rfl
@[simp] theorem State.setResultFlag_i : (s.setResultFlag x r f).i = s.i := rfl
@[simp] theorem State.setResultFlag_pc : (s.setResultFlag x r f).pc = s.pc := rfl
@[simp] theorem State.setResultFlag_sp : (s.setResultFlag x r f).sp = s.sp := rfl
@[simp] theorem State.setResultFlag_stack : (s.setResultFlag x r f).stack = s.stack := rfl
@[simp] theorem State.setResultFlag_fb : (s.setResultFlag x r f).fb = s.fb := rfl
@[simp] theorem State.setResultFlag_keypad : (s.setResultFlag x r f).keypad = s.keypad := rfl
@[simp] theorem State.setResultFlag_dt : (s.setResultFlag x r f).dt = s.dt := rfl
@[simp] theorem State.setResultFlag_st : (s.setResultFlag x r f).st = s.st := rfl
@[simp] theorem State.setResultFlag_redraw : (s.setResultFlag x r f).redraw = s.redraw := rfl
@[simp] theorem State.setResultFlag_fault : (s.setResultFlag x r f).fault = s.fault := rfl
@[simp] theorem State.setResultFlag_mem : (s.setResultFlag x r f).mem = s.mem := rfl
@[simp] theorem State.setResultFlag_tickResult : (s.setResultFlag x r f).tickResult = s.tickResult := rfl
@[simp] theorem State.setResultFlag_loadResult : (s.setResultFlag x r f).loadResult = s.loadResult := rfl
@[simp] theorem State.setResultFlag_cfg : (s.setResultFlag x r f).cfg = s.cfg := rfl
@[simp] theorem State.setResultFlag_draws : (s.setResultFlag x r f).draws = s.draws := rfl
@[simp] theorem State.setResultFlag_pending : (s.setResultFlag x r f).pending = s.pending := rfl
end setResultFlag

section afterFetch
variable (s : State)
@[simp] theorem State.afterFetch_v : (s.afterFetch).v = s.v := rfl
@[simp] theorem State.afterFetch_i : (s.afterFetch).i = s.i := rfl
@[simp] theorem State.afterFetch_pc : (s.afterFetch).pc = s.pc + 2 := rfl
@[simp] theorem State.afterFetch_sp : (s.afterFetch).sp = s.sp := rfl
@[simp] theorem State.afterFetch_stack : (s.afterFetch).stack = s.stack := rfl
@[simp] theorem State.afterFetch_fb : (s.afterFetch).fb = s.fb := rfl
@[simp] theorem State.afterFetch_keypad : (s.afterFetch).keypad = s.keypad := rfl
@[simp] theorem State.afterFetch_dt : (s.afterFetch).dt = s.dt := rfl
@[simp] theorem State.afterFetch_st : (s.afterFetch).st = s.st := rfl
@[simp] theorem State.afterFetch_redraw : (s.afterFetch).redraw = s.redraw := rfl
@[simp] theorem State.afterFetch_fault : (s.afterFetch).fault = s.fault := rfl
@[simp] theorem State.afterFetch_mem : (s.afterFetch).mem = s.mem := rfl
@[simp] theorem State.afterFetch_tickResult : (s.afterFetch).tickResult = .ok := rfl
@[simp] theorem State.afterFetch_loadResult : (s.afterFetch).loadResult = s.loadResult := rfl
@[simp] theorem State.afterFetch_cfg : (s.afterFetch).cfg = s.cfg := rfl
@[simp] theorem State.afterFetch_draws : (s.afterFetch).draws = s.draws := rfl
@[simp] theorem State.afterFetch_pending : (s.afterFetch).pending = s.pending := rfl
end afterFetch

section timer60
variable (s : State)
@[simp] theorem State.timer60_v : (s.timer60).v = s.v := rfl
@[simp] theorem State.timer60_i : (s.timer60).i = s.i := rfl
@[simp] theorem State.timer60_pc : (s.timer60).pc = s.pc := rfl
@[simp] theorem State.timer60_sp : (s.timer60).sp = s.sp := rfl
@[simp] theorem State.timer60_stack : (s.timer60).stack = s.stack := rfl
@[simp] theorem State.timer60_fb : (s.timer60).fb = s.fb := rfl
@[simp] theorem State.timer60_keypad : (s.timer60).keypad = s.keypad := rfl
@[simp] theorem State.timer60_dt : (s.timer60).dt = countDown s.dt := rfl
@[simp] theorem State.timer60_st : (s.timer60).st = countDown s.st := rfl
@[simp] theorem State.timer60_redraw : (s.timer60).redraw = s.redraw := rfl
@[simp] theorem State.timer60_fault : (s.timer60).fault = s.fault := rfl
@[simp] theorem State.timer60_mem : (s.timer60).mem = s.mem := rfl
@[simp] theorem State.timer60_tickResult : (s.timer60).tickResult = s.tickResult := rfl
@[simp] theorem State.timer60_loadResult : (s.timer60).loadResult = s.loadResult := rfl
@[simp] theorem State.timer60_cfg : (s.timer60).cfg = s.cfg := rfl
@[simp] theorem State.timer60_draws : (s.timer60).draws = s.draws := rfl
@[simp] theorem State.timer60_pending : (s.timer60).pending = s.pending := rfl
end timer60

section keySet
variable (s : State) (k : Fin 16) (b : Bool)
@[simp] theorem State.keySet_v : (s.keySet k b).v = s.v := rfl
@[simp] theorem State.keySet_i : (s.keySet k b).i = s.i := rfl
@[simp] theorem State.keySet_pc : (s.keySet k b).pc = s.pc := rfl
@[simp] theorem State.keySet_sp : (s.keySet k b).sp = s.sp := rfl
@[simp] theorem State.keySet_stack : (s.keySet k b).stack = s.stack := rfl
@[simp] theorem State.keySet_fb : (s.keySet k b).fb = s.fb := rfl
@[simp] theorem State.keySet_keypad : (s.keySet k b).keypad = s.keypad.set k.val b k.isLt := rfl
@[simp] theorem State.keySet_dt : (s.keySet k b).dt = s.dt := rfl
@[simp] theorem State.keySet_st : (s.keySet k b).st = s.st := rfl
@[simp] theorem State.keySet_redraw : (s.keySet k b).redraw = s.redraw := rfl
@[simp] theorem State.keySet_fault : (s.keySet k b).fault = s.fault := rfl
@[simp] theorem State.keySet_mem : (s.keySet k b).mem = s.mem := rfl
@[simp] theorem State.keySet_tickResult : (s.keySet k b).tickResult = s.tickResult := rfl
@[simp] theorem State.keySet_loadResult : (s.keySet k b).loadResult = s.loadResult := rfl
@[simp] theorem State.keySet_cfg : (s.keySet k b).cfg = s.cfg := rfl
@[simp] theorem State.keySet_draws : (s.keySet k b).draws = s.draws := rfl
@[simp] theorem State.keySet_pending : (s.keySet k b).pending = s.pending := rfl
end keySet

section redrawAck
variable (s : State)
@[simp] theorem State.redrawAck_v : (s.redrawAck).v = s.v := rfl
@[simp] theorem State.redrawAck_i : (s.redrawAck).i = s.i := rfl
@[simp] theorem State.redrawAck_pc : (s.redrawAck).pc = s.pc := rfl
@[simp] theorem State.redrawAck_sp : (s.redrawAck).sp = s.sp := rfl
@[simp] theorem State.redrawAck_stack : (s.redrawAck).stack = s.stack := rfl
@[simp] theorem State.redrawAck_fb : (s.redrawAck).fb = s.fb := rfl
@[simp] theorem State.redrawAck_keypad : (s.redrawAck).keypad = s.keypad := rfl
@[simp] theorem State.redrawAck_dt : (s.redrawAck).dt = s.dt := rfl
@[simp] theorem State.redrawAck_st : (s.redrawAck).st = s.st := rfl
@[simp] theorem State.redrawAck_redraw : (s.redrawAck).redraw = false := rfl
@[simp] theorem State.redrawAck_fault : (s.redrawAck).fault = s.fault := rfl
@[simp] theorem State.redrawAck_mem : (s.redrawAck).mem = s.mem := rfl
@[simp] theorem State.redrawAck_tickResult : (s.redrawAck).tickResult = s.tickResult := rfl
@[simp] theorem State.redrawAck_loadResult : (s.redrawAck).loadResult = s.loadResult := rfl
@[simp] theorem State.redrawAck_cfg : (s.redrawAck).cfg = s.cfg := rfl
@[simp] theorem State.redrawAck_draws : (s.redrawAck).draws = s.draws := rfl
@[simp] theorem State.redrawAck_pending : (s.redrawAck).pending = s.pending := rfl
end redrawAck

section resetEvent
variable (s : State)
@[simp] theorem State.resetEvent_v : (s.resetEvent).v = Vector.replicate 16 0 := rfl
@[simp] theorem State.resetEvent_i : (s.resetEvent).i = 0 := rfl
@[simp] theorem State.resetEvent_pc : (s.resetEvent).pc = 0x200 := rfl
@[simp] theorem State.resetEvent_sp : (s.resetEvent).sp = 0 := rfl
@[simp] theorem State.resetEvent_stack : (s.resetEvent).stack = Vector.replicate 16 0 := rfl
@[simp] theorem State.resetEvent_fb : (s.resetEvent).fb = Framebuffer.blank := rfl
@[simp] theorem State.resetEvent_keypad : (s.resetEvent).keypad = Vector.replicate 16 false := rfl
@[simp] theorem State.resetEvent_dt : (s.resetEvent).dt = 0 := rfl
@[simp] theorem State.resetEvent_st : (s.resetEvent).st = 0 := rfl
@[simp] theorem State.resetEvent_redraw : (s.resetEvent).redraw = false := rfl
@[simp] theorem State.resetEvent_fault : (s.resetEvent).fault = FaultLatch.empty := rfl
@[simp] theorem State.resetEvent_mem : (s.resetEvent).mem = [] := rfl
@[simp] theorem State.resetEvent_tickResult : (s.resetEvent).tickResult = .none := rfl
@[simp] theorem State.resetEvent_loadResult : (s.resetEvent).loadResult = .none := rfl
@[simp] theorem State.resetEvent_cfg : (s.resetEvent).cfg = s.cfg := rfl
@[simp] theorem State.resetEvent_draws : (s.resetEvent).draws = s.draws := rfl
@[simp] theorem State.resetEvent_pending : (s.resetEvent).pending = s.pending := rfl
end resetEvent

/-! `writeBytes` changes only `mem`. -/

theorem State.writeBytes_frame (bs : List Byte) :
    ∀ (s : State) (a : Nat), s.writeBytes a bs = { s with mem := (s.writeBytes a bs).mem } := by
  induction bs with
  | nil => intro s a; rfl
  | cons b bs ih => intro s a; rw [State.writeBytes, ih]; rfl

@[simp] theorem State.writeBytes_v (s : State) (a : Nat) (bs : List Byte) :
    (s.writeBytes a bs).v = s.v := by rw [State.writeBytes_frame]
@[simp] theorem State.writeBytes_i (s : State) (a : Nat) (bs : List Byte) :
    (s.writeBytes a bs).i = s.i := by rw [State.writeBytes_frame]
@[simp] theorem State.writeBytes_pc (s : State) (a : Nat) (bs : List Byte) :
    (s.writeBytes a bs).pc = s.pc := by rw [State.writeBytes_frame]
@[simp] theorem State.writeBytes_sp (s : State) (a : Nat) (bs : List Byte) :
    (s.writeBytes a bs).sp = s.sp := by rw [State.writeBytes_frame]
@[simp] theorem State.writeBytes_stack (s : State) (a : Nat) (bs : List Byte) :
    (s.writeBytes a bs).stack = s.stack := by rw [State.writeBytes_frame]
@[simp] theorem State.writeBytes_fb (s : State) (a : Nat) (bs : List Byte) :
    (s.writeBytes a bs).fb = s.fb := by rw [State.writeBytes_frame]
@[simp] theorem State.writeBytes_keypad (s : State) (a : Nat) (bs : List Byte) :
    (s.writeBytes a bs).keypad = s.keypad := by rw [State.writeBytes_frame]
@[simp] theorem State.writeBytes_dt (s : State) (a : Nat) (bs : List Byte) :
    (s.writeBytes a bs).dt = s.dt := by rw [State.writeBytes_frame]
@[simp] theorem State.writeBytes_st (s : State) (a : Nat) (bs : List Byte) :
    (s.writeBytes a bs).st = s.st := by rw [State.writeBytes_frame]
@[simp] theorem State.writeBytes_redraw (s : State) (a : Nat) (bs : List Byte) :
    (s.writeBytes a bs).redraw = s.redraw := by rw [State.writeBytes_frame]
@[simp] theorem State.writeBytes_fault (s : State) (a : Nat) (bs : List Byte) :
    (s.writeBytes a bs).fault = s.fault := by rw [State.writeBytes_frame]
@[simp] theorem State.writeBytes_tickResult (s : State) (a : Nat) (bs : List Byte) :
    (s.writeBytes a bs).tickResult = s.tickResult := by rw [State.writeBytes_frame]
@[simp] theorem State.writeBytes_loadResult (s : State) (a : Nat) (bs : List Byte) :
    (s.writeBytes a bs).loadResult = s.loadResult := by rw [State.writeBytes_frame]
@[simp] theorem State.writeBytes_cfg (s : State) (a : Nat) (bs : List Byte) :
    (s.writeBytes a bs).cfg = s.cfg := by rw [State.writeBytes_frame]
@[simp] theorem State.writeBytes_draws (s : State) (a : Nat) (bs : List Byte) :
    (s.writeBytes a bs).draws = s.draws := by rw [State.writeBytes_frame]
@[simp] theorem State.writeBytes_pending (s : State) (a : Nat) (bs : List Byte) :
    (s.writeBytes a bs).pending = s.pending := by rw [State.writeBytes_frame]

/-! `setRegs` changes only `v`. -/

theorem State.setRegs_frame (bs : List Byte) :
    ∀ (s : State) (k : Nat), s.setRegs k bs = { s with v := (s.setRegs k bs).v } := by
  induction bs with
  | nil => intro s k; rfl
  | cons b bs ih => intro s k; rw [State.setRegs, ih]; rfl

@[simp] theorem State.setRegs_i (s : State) (k : Nat) (bs : List Byte) :
    (s.setRegs k bs).i = s.i := by rw [State.setRegs_frame]
@[simp] theorem State.setRegs_pc (s : State) (k : Nat) (bs : List Byte) :
    (s.setRegs k bs).pc = s.pc := by rw [State.setRegs_frame]
@[simp] theorem State.setRegs_sp (s : State) (k : Nat) (bs : List Byte) :
    (s.setRegs k bs).sp = s.sp := by rw [State.setRegs_frame]
@[simp] theorem State.setRegs_stack (s : State) (k : Nat) (bs : List Byte) :
    (s.setRegs k bs).stack = s.stack := by rw [State.setRegs_frame]
@[simp] theorem State.setRegs_fb (s : State) (k : Nat) (bs : List Byte) :
    (s.setRegs k bs).fb = s.fb := by rw [State.setRegs_frame]
@[simp] theorem State.setRegs_keypad (s : State) (k : Nat) (bs : List Byte) :
    (s.setRegs k bs).keypad = s.keypad := by rw [State.setRegs_frame]
@[simp] theorem State.setRegs_dt (s : State) (k : Nat) (bs : List Byte) :
    (s.setRegs k bs).dt = s.dt := by rw [State.setRegs_frame]
@[simp] theorem State.setRegs_st (s : State) (k : Nat) (bs : List Byte) :
    (s.setRegs k bs).st = s.st := by rw [State.setRegs_frame]
@[simp] theorem State.setRegs_redraw (s : State) (k : Nat) (bs : List Byte) :
    (s.setRegs k bs).redraw = s.redraw := by rw [State.setRegs_frame]
@[simp] theorem State.setRegs_fault (s : State) (k : Nat) (bs : List Byte) :
    (s.setRegs k bs).fault = s.fault := by rw [State.setRegs_frame]
@[simp] theorem State.setRegs_mem (s : State) (k : Nat) (bs : List Byte) :
    (s.setRegs k bs).mem = s.mem := by rw [State.setRegs_frame]
@[simp] theorem State.setRegs_tickResult (s : State) (k : Nat) (bs : List Byte) :
    (s.setRegs k bs).tickResult = s.tickResult := by rw [State.setRegs_frame]
@[simp] theorem State.setRegs_loadResult (s : State) (k : Nat) (bs : List Byte) :
    (s.setRegs k bs).loadResult = s.loadResult := by rw [State.setRegs_frame]
@[simp] theorem State.setRegs_cfg (s : State) (k : Nat) (bs : List Byte) :
    (s.setRegs k bs).cfg = s.cfg := by rw [State.setRegs_frame]
@[simp] theorem State.setRegs_draws (s : State) (k : Nat) (bs : List Byte) :
    (s.setRegs k bs).draws = s.draws := by rw [State.setRegs_frame]
@[simp] theorem State.setRegs_pending (s : State) (k : Nat) (bs : List Byte) :
    (s.setRegs k bs).pending = s.pending := by rw [State.setRegs_frame]

end Sys2Proof.Machine
end

