-- ==== Sys2Proof/Laws/Memory.lean ====
section
/-!
SUPPORT. The laws of main memory: a read after a write, the canonical form, and that two memories in
canonical form that read alike are equal.
-/

namespace Sys2Proof.Machine

variable {font : Font}

/-- Below every listed address, memory reads as at reset. -/
theorem cellRead_of_lt {m : List Host.Cell} {a : Nat} (h : ∀ d ∈ m, a < d.1) :
    cellRead font m a = resetByte font a := by
  induction m with
  | nil => rfl
  | cons d m ih =>
    have := h d (by simp)
    rw [cellRead, if_neg (by omega), ih fun e he => h e (by simp [he])]

/-- A read after a write: the byte written at its address, the old byte elsewhere. -/
theorem cellRead_cellWrite (m : List Host.Cell) (a b : Nat) (v : Byte) :
    (Memory.wf font m = true) →
    cellRead font (cellWrite font m a v) b = if b = a then v else cellRead font m b := by
  intro hwf
  simp only [Memory.wf, Bool.and_eq_true, decide_eq_true_eq] at hwf
  replace hwf := hwf.1
  induction m with
  | nil =>
    unfold cellWrite
    by_cases hv : v = resetByte font a <;> by_cases hb : b = a <;>
      simp [cellRead, hv, hb, @eq_comm _ a b]
  | cons c m ih =>
    obtain ⟨hc, hm⟩ := List.pairwise_cons.1 hwf
    have below : ∀ b, b < c.1 → cellRead font (c :: m) b = resetByte font b := fun b hb =>
      cellRead_of_lt fun d hd => by
        rcases List.mem_cons.1 hd with rfl | hd
        · exact hb
        · exact hb.trans (hc d hd)
    have above : cellRead font m c.1 = resetByte font c.1 := cellRead_of_lt hc
    unfold cellWrite
    rcases Nat.lt_trichotomy a c.1 with h | h | h
    · rw [if_pos h]
      split
      · next hv => by_cases hb : b = a
                   · subst hb; simp [below _ h, hv]
                   · simp [hb]
      · by_cases hb : b = a
        · subst hb; simp [cellRead]
        · simp [cellRead, hb, show ¬ a = b from fun e => hb e.symm]
    · subst h
      rw [if_neg (by omega), if_pos rfl]
      split
      · next hv => by_cases hb : b = c.1
                   · subst hb; simp [above, hv]
                   · simp [cellRead, hb, show ¬ c.1 = b from fun e => hb e.symm]
      · by_cases hb : b = c.1
        · subst hb; simp [cellRead]
        · simp [cellRead, hb, show ¬ c.1 = b from fun e => hb e.symm]
    · rw [if_neg (by omega), if_neg (by omega), cellRead, cellRead, ih hm]
      by_cases hb : c.1 = b
      · simp [hb, show ¬ b = a by omega]
      · simp [hb]

/-- An entry of a memory after a write is the written one or an old one. -/
theorem mem_cellWrite {m : List Host.Cell} {a : Nat} {v : Byte} {c : Host.Cell}
    (h : c ∈ cellWrite font m a v) : (c = (a, v) ∧ v ≠ resetByte font a) ∨ c ∈ m := by
  induction m with
  | nil => unfold cellWrite at h; split at h <;> simp_all
  | cons d m ih =>
    unfold cellWrite at h
    split at h
    · split at h
      · exact .inr h
      · rcases List.mem_cons.1 h with rfl | h
        · exact .inl ⟨rfl, ‹_›⟩
        · exact .inr h
    · split at h
      · split at h
        · exact .inr (by simp [h])
        · rcases List.mem_cons.1 h with rfl | h
          · exact .inl ⟨rfl, ‹_›⟩
          · exact .inr (by simp [h])
      · rcases List.mem_cons.1 h with rfl | h
        · exact .inr (by simp)
        · exact (ih h).imp_right (by simp +contextual)

/-- A write keeps the canonical form. -/
theorem wf_cellWrite {m : List Host.Cell} (a : Nat) (v : Byte) (h : Memory.wf font m = true) :
    Memory.wf font (cellWrite font m a v) = true := by
  simp only [Memory.wf, Bool.and_eq_true, decide_eq_true_eq, List.all_eq_true, bne_iff_ne] at h ⊢
  refine ⟨?_, fun c hc => ?_⟩
  · obtain ⟨hs, -⟩ := h
    induction m with
    | nil => unfold cellWrite; split <;> simp
    | cons d m ih =>
      obtain ⟨hd, hm⟩ := List.pairwise_cons.1 hs
      unfold cellWrite
      split
      · split
        · exact hs
        · refine List.pairwise_cons.2 ⟨fun e he => ?_, hs⟩
          rcases List.mem_cons.1 he with rfl | he
          · assumption
          · exact Nat.lt_trans ‹_› (hd e he)
      · split
        · split
          · exact hm
          · next h _ => exact List.pairwise_cons.2 ⟨fun e he => h ▸ hd e he, hm⟩
        · refine List.pairwise_cons.2 ⟨fun e he => ?_, ih hm⟩
          rcases mem_cellWrite he with ⟨rfl, -⟩ | he
          · show d.1 < a
            omega
          · exact hd e he
  · rcases mem_cellWrite hc with ⟨rfl, hv⟩ | hc
    · exact hv
    · exact h.2 c hc

/-- Two memories in canonical form that read alike at every address are equal data. -/
theorem eq_of_cellRead_eq {m m' : List Host.Cell} (h : Memory.wf font m = true)
    (h' : Memory.wf font m' = true) (hr : ∀ a, cellRead font m a = cellRead font m' a) : m = m' := by
  simp only [Memory.wf, Bool.and_eq_true, decide_eq_true_eq, List.all_eq_true, bne_iff_ne] at h h'
  induction m generalizing m' with
  | nil =>
    cases m' with
    | nil => rfl
    | cons c m' =>
      have := hr c.1
      simp [cellRead] at this
      exact absurd this.symm (h'.2 c (by simp))
  | cons c m ih =>
    cases m' with
    | nil =>
      have := hr c.1
      simp [cellRead] at this
      exact absurd this (h.2 c (by simp))
    | cons d m' =>
      obtain ⟨hc, hm⟩ := List.pairwise_cons.1 h.1
      obtain ⟨hd, hm'⟩ := List.pairwise_cons.1 h'.1
      have hcd : c.1 = d.1 := by
        rcases Nat.lt_trichotomy c.1 d.1 with hlt | heq | hlt
        · have := hr c.1
          rw [cellRead, if_pos rfl, cellRead_of_lt (m := d :: m') (a := c.1) (by
            intro e he
            rcases List.mem_cons.1 he with rfl | he
            · exact hlt
            · exact hlt.trans (hd e he))] at this
          exact absurd this (h.2 c (by simp))
        · exact heq
        · have := hr d.1
          rw [cellRead.eq_def font (d :: m'), cellRead_of_lt (m := c :: m) (a := d.1) (by
            intro e he
            rcases List.mem_cons.1 he with rfl | he
            · exact hlt
            · exact hlt.trans (hc e he))] at this
          simp at this
          exact absurd this.symm (h'.2 d (by simp))
      have hv : c.2 = d.2 := by
        have := hr c.1
        simpa [cellRead, hcd] using this
      have : m = m' := by
        refine ih (fun a => ?_) ⟨hm, fun e he => h.2 e (by simp [he])⟩
          ⟨hm', fun e he => h'.2 e (by simp [he])⟩
        by_cases ha : c.1 = a
        · subst ha
          rw [cellRead_of_lt hc, cellRead_of_lt (by rw [hcd]; exact hd)]
        · have := hr a
          simpa [cellRead, ha, hcd ▸ ha] using this
      rw [this, Prod.ext hcd hv]

/-! ### The same through the state -/

theorem State.readByte_writeByte {s : State} (h : s.MemWf) (a c : Nat) (b : Byte) :
    (s.writeByte a b).readByte c = if c = a then b else s.readByte c :=
  cellRead_cellWrite s.mem a c b h

theorem State.memWf_writeByte {s : State} (h : s.MemWf) (a : Nat) (b : Byte) :
    (s.writeByte a b).MemWf := wf_cellWrite a b h

theorem State.memWf_writeBytes (bs : List Byte) :
    ∀ {s : State} (a : Nat), s.MemWf → (s.writeBytes a bs).MemWf := by
  induction bs with
  | nil => intro s a h; exact h
  | cons b bs ih => intro s a h; exact ih (a + 1) (State.memWf_writeByte h a b)

/-- What a byte reads after a run of bytes is stored: the byte of its place in the list, or its old
value (20_memory.md R52). -/
theorem State.readByte_writeBytes (bs : List Byte) :
    ∀ {s : State} (a c : Nat), s.MemWf →
      (s.writeBytes a bs).readByte c =
        if a ≤ c then bs.getD (c - a) (s.readByte c) else s.readByte c := by
  induction bs with
  | nil => intro s a c _; simp [State.writeBytes]
  | cons b bs ih =>
    intro s a c h
    rw [State.writeBytes, ih (a + 1) c (State.memWf_writeByte h a b), State.readByte_writeByte h]
    rcases Nat.lt_trichotomy c a with hc | hc | hc
    · simp [show ¬ a + 1 ≤ c by omega, show ¬ a ≤ c by omega, show c ≠ a by omega]
    · simp [hc]
    · obtain ⟨d, hd⟩ : ∃ d, c - a = d + 1 := ⟨c - a - 1, by omega⟩
      have hd' : c - (a + 1) = d := by omega
      simp [show a + 1 ≤ c by omega, show a ≤ c by omega, show c ≠ a by omega, hd, hd']

/-- A byte outside the stored run reads as before. -/
theorem State.readByte_writeBytes_outside {s : State} (h : s.MemWf) (a c : Nat) (bs : List Byte)
    (hc : c < a ∨ a + bs.length ≤ c) : (s.writeBytes a bs).readByte c = s.readByte c := by
  rw [State.readByte_writeBytes bs a c h]
  rcases hc with hc | hc
  · simp [show ¬ a ≤ c by omega]
  · split
    · rw [List.getD_eq_getElem?_getD, List.getElem?_eq_none (by omega), Option.getD_none]
    · rfl

/-- Storing `bs` from `a` on lists no address that is neither listed before nor in the run. -/
theorem State.mem_writeBytes (bs : List Byte) :
    ∀ {s : State} {a : Nat} {c : Host.Cell}, c ∈ (s.writeBytes a bs).mem →
      c ∈ s.mem ∨ (a ≤ c.1 ∧ c.1 < a + bs.length) := by
  induction bs with
  | nil => intro s a c h; exact .inl h
  | cons b bs ih =>
    intro s a c h
    rcases ih h with h | h
    · rcases mem_cellWrite h with ⟨rfl, -⟩ | h
      · exact .inr (by simp)
      · exact .inl h
    · exact .inr (by simp only [List.length_cons]; omega)

@[simp] theorem State.length_readBytes (s : State) (a n : Nat) : (s.readBytes a n).length = n := by
  simp [State.readBytes]

/-- Byte `k` of a block read at `a` is the byte at `a + k`. -/
theorem State.getElem?_readBytes (s : State) (a : Nat) {n k : Nat} (h : k < n) :
    (s.readBytes a n)[k]? = some (s.readByte (a + k)) := by
  simp [State.readBytes, h]

/-- A read of memory depends on the memory and the font alone. -/
theorem State.readByte_congr {s t : State} (hm : t.mem = s.mem) (hc : t.cfg = s.cfg) (a : Nat) :
    t.readByte a = s.readByte a := by simp [State.readByte, hm, hc]

end Sys2Proof.Machine
end

