-- ==== Sys2Proof/Laws/Registers.lean ====
section
/-!
SUPPORT. What the register operations do, seen through `getV`.
-/

namespace Sys2Proof.Machine

/-- What `V[r]` reads after `V[x] <- b`. -/
theorem State.getV_setV (s : State) (x r : Nibble) (b : Byte) :
    (s.setV x b).getV r = if r = x then b else s.getV r := by
  have hi : x.toNat = r.toNat ↔ r = x := by rw [eq_comm, BitVec.toNat_inj]
  simp [State.getV, State.setV, Vector.getElem_set, hi]

@[simp] theorem State.getV_setV_same (s : State) (x : Nibble) (b : Byte) :
    (s.setV x b).getV x = b := by simp [State.getV_setV]

theorem State.getV_setV_ne (s : State) {x r : Nibble} (b : Byte) (h : r ≠ x) :
    (s.setV x b).getV r = s.getV r := by simp [State.getV_setV, h]

/-- `V[r]` depends on the register file alone. -/
theorem State.getV_congr {s t : State} (h : t.v = s.v) (r : Nibble) : t.getV r = s.getV r := by
  simp [State.getV, h]

/-- What a flag-writing instruction leaves: the flag in `VF`, else the result in `V[x]`
(42_arith_logic_shift.md R100). -/
theorem State.getV_setResultFlag (s : State) (x r : Nibble) (b f : Byte) :
    (s.setResultFlag x b f).getV r = if r = vf then f else if r = x then b else s.getV r := by
  simp [State.setResultFlag, State.getV_setV]

@[simp] theorem State.getV_setI (s : State) (w : Word) (r : Nibble) :
    (s.setI w).getV r = s.getV r := rfl
@[simp] theorem State.getV_setPc (s : State) (w : Word) (r : Nibble) :
    (s.setPc w).getV r = s.getV r := rfl
@[simp] theorem State.getV_writeByte (s : State) (a : Nat) (b : Byte) (r : Nibble) :
    (s.writeByte a b).getV r = s.getV r := rfl
@[simp] theorem State.getV_display (s : State) (fb : Framebuffer) (r : Nibble) :
    (s.display fb).getV r = s.getV r := rfl
@[simp] theorem State.getV_takeFault (s : State) (c : FaultCause) (ia op info : Word) (r : Nibble) :
    (s.takeFault c ia op info).getV r = s.getV r := rfl
@[simp] theorem State.getV_diag (s : State) (op : Word) (r : Nibble) :
    (s.diag op).getV r = s.getV r := rfl
@[simp] theorem State.getV_afterFetch (s : State) (r : Nibble) :
    s.afterFetch.getV r = s.getV r := rfl
@[simp] theorem State.getV_writeBytes (s : State) (a : Nat) (bs : List Byte) (r : Nibble) :
    (s.writeBytes a bs).getV r = s.getV r := State.getV_congr (by simp) r

/-- What `V[r]` reads after a run of registers from `V[k]` on is written: the byte of its place in
the list, or its old value (45_index_memory.md R145). -/
theorem State.getV_setRegs (bs : List Byte) :
    ∀ (s : State) (k : Nat) (r : Nibble), k + bs.length ≤ 16 →
      (s.setRegs k bs).getV r =
        if k ≤ r.toNat then bs.getD (r.toNat - k) (s.getV r) else s.getV r := by
  induction bs with
  | nil => intro s k r _; simp [State.setRegs]
  | cons b bs ih =>
    intro s k r hk
    simp only [List.length_cons] at hk
    have hr : r = BitVec.ofNat 4 k ↔ r.toNat = k := by
      rw [← BitVec.toNat_inj, BitVec.toNat_ofNat, Nat.mod_eq_of_lt (by omega)]
    rw [State.setRegs, ih _ _ _ (by omega), State.getV_setV]
    simp only [hr]
    rcases Nat.lt_trichotomy r.toNat k with h | h | h
    · simp [show ¬ k + 1 ≤ r.toNat by omega, show ¬ k ≤ r.toNat by omega, show r.toNat ≠ k by omega]
    · simp [h]
    · obtain ⟨d, hd⟩ : ∃ d, r.toNat - k = d + 1 := ⟨r.toNat - k - 1, by omega⟩
      have hd' : r.toNat - (k + 1) = d := by omega
      simp [show k + 1 ≤ r.toNat by omega, show k ≤ r.toNat by omega,
        show r.toNat ≠ k by omega, hd, hd']

@[simp] theorem State.length_getRegs (s : State) (n : Nat) : (s.getRegs n).length = n := by
  simp [State.getRegs]

/-- Byte `k` of a block of registers is `V[k]` (45_index_memory.md R144). -/
theorem State.getElem?_getRegs (s : State) {n k : Nat} (h : k < n) :
    (s.getRegs n)[k]? = some (s.getV (BitVec.ofNat 4 k)) := by
  simp [State.getRegs, h]

end Sys2Proof.Machine
end

