-- ==== Sys2Proof/Laws/Ops.lean ====
section
/-!
SUPPORT. What each shared operation can do, once: the range check, the transfer, the return stack,
the skip, and one pixel of a sprite.
-/

namespace Sys2Proof.Machine

/-! ### The range check (20_memory.md R49) -/

/-- The check passes exactly on an empty access, or on one that stays below 0x1000 and, for a write,
off the font. -/
theorem State.checkRange_eq_none (s : State) (n : Nat) (k : AccessKind) :
    s.checkRange n k = none ↔
      n = 0 ∨ (s.i.toNat + n ≤ 0x1000 ∧
        (k = .write → 0x09F < s.i.toNat ∨ s.i.toNat + n ≤ 0x050)) := by
  unfold State.checkRange maxAddr fontEnd fontBase
  by_cases h0 : n = 0
  · simp [h0]
  by_cases h1 : s.i.toNat + n - 1 > 0xFFF
  · rw [if_neg h0, if_pos h1]
    refine ⟨fun h => absurd h (by simp), ?_⟩
    rintro (h | ⟨h, -⟩) <;> omega
  by_cases h2 : k = .write ∧ s.i.toNat ≤ 0x9F ∧ 0x50 ≤ s.i.toNat + n - 1
  · rw [if_neg h0, if_neg h1, if_pos h2]
    refine ⟨fun h => absurd h (by simp), ?_⟩
    rintro (h | ⟨-, h⟩)
    · omega
    · have := h h2.1
      omega
  · rw [if_neg h0, if_neg h1, if_neg h2]
    refine ⟨fun _ => .inr ⟨by omega, fun hk => ?_⟩, fun _ => rfl⟩
    by_contra h
    exact h2 ⟨hk, by omega, by omega⟩

/-- Where the check fails, it says which fault and with what info. -/
theorem State.checkRange_cases {s : State} {n : Nat} {k : AccessKind} {c : FaultCause} {w : Word}
    (h : s.checkRange n k = some (c, w)) :
    n ≠ 0 ∧
      ((c = .addressOverflow ∧ w = s.i ∧ 0x1000 < s.i.toNat + n) ∨
       (c = .protectedWrite ∧ k = .write ∧ s.i.toNat + n ≤ 0x1000 ∧
        s.i.toNat ≤ 0x09F ∧ 0x050 < s.i.toNat + n ∧ w = BitVec.ofNat 16 (max s.i.toNat 0x050))) := by
  unfold State.checkRange maxAddr fontEnd fontBase at h
  by_cases h0 : n = 0
  · simp [h0] at h
  by_cases h1 : s.i.toNat + n - 1 > 0xFFF
  · simp only [h0, h1, if_true, if_false, Option.some.injEq, Prod.mk.injEq] at h
    exact ⟨h0, .inl ⟨h.1.symm, h.2.symm, by omega⟩⟩
  by_cases h2 : k = .write ∧ s.i.toNat ≤ 0x9F ∧ 0x50 ≤ s.i.toNat + n - 1
  · rw [if_neg h0, if_neg h1, if_pos h2] at h
    simp only [Option.some.injEq, Prod.mk.injEq] at h
    exact ⟨h0, .inr ⟨h.1.symm, h2.1, by omega, h2.2.1, by omega, h.2.symm⟩⟩
  · rw [if_neg h0, if_neg h1, if_neg h2] at h
    cases h

/-! ### Transfers and the return stack -/

/-- A transfer goes to an even target and faults on an odd one (40_control_jump_call.md R85). -/
theorem jumpTo_cases (op t : Word) (s : State) :
    (misaligned t = false ∧ jumpTo op t s = .next (s.setPc t)) ∨
      (misaligned t = true ∧ jumpTo op t s = .next (s.takeFault .pcMisaligned (s.pc - 2) op t)) := by
  unfold jumpTo raise
  cases misaligned t <;> simp

/-- Pushing fills the slot at the depth and counts the depth up, or there is no room. -/
theorem State.push_cases (s : State) :
    (∃ h : s.sp.val < 16, ∃ t, s.push = some t ∧ t.sp.val = s.sp.val + 1 ∧
      t = { s with stack := s.stack.set s.sp.val s.pc h, sp := t.sp }) ∨
      (s.sp.val = 16 ∧ s.push = none) := by
  unfold State.push
  split
  · next h => exact .inl ⟨h, _, rfl, rfl, rfl⟩
  · next h => exact .inr ⟨by have := s.sp.isLt; omega, rfl⟩

/-- Popping takes the topmost entry to `pc` and counts the depth down, or the stack is empty. -/
theorem State.pop_cases (s : State) :
    (∃ h : 0 < s.sp.val, ∃ t, s.pop = some t ∧ t.sp.val = s.sp.val - 1 ∧
      t = { s with pc := s.stack[s.sp.val - 1]'(by omega), sp := t.sp }) ∨
      (s.sp.val = 0 ∧ s.pop = none) := by
  unfold State.pop
  split
  · next h => exact .inl ⟨h, _, rfl, rfl, rfl⟩
  · next h => exact .inr ⟨by omega, rfl⟩

/-- A skip moves `pc` by 2 or not at all, and nothing else (41_skip.md R90). -/
theorem skipIf_eq (c : Bool) (s : State) :
    skipIf c s = .next (s.setPc (if c then s.pc + 2 else s.pc)) := by
  cases c <;> rfl

/-! ### One pixel of a sprite (43_random_draw.md R122) -/

/-- A pixel after one pixel of the grid is written. -/
theorem pixel_set (fb : Framebuffer) {px py : Nat} (hx : px < 64) (hy : py < 32) (b : Bool) (x y : Nat) :
    pixel (fb.set py (fb[py].set px b hx) hy) x y = if x = px ∧ y = py then b else pixel fb x y := by
  unfold pixel
  by_cases h : x < 64 ∧ y < 32
  · simp only [h, and_self, dite_true, Vector.getElem_set]
    by_cases h1 : py = y
    · subst h1
      by_cases h2 : px = x
      · simp [h2]
      · simp [h2, show ¬ x = px from fun e => h2 e.symm]
    · simp [h1, show ¬ y = py from fun e => h1 e.symm]
  · have : ¬ (x = px ∧ y = py) := fun e => h ⟨e.1 ▸ hx, e.2 ▸ hy⟩
    simp [h, this]

/-- Toggling a pixel inverts it if it is on the grid, leaves every other, and collides iff it was
on. -/
theorem togglePixel_spec (tx ty : Nat) (acc : Framebuffer × Bool) (px py : Nat) :
    pixel (togglePixel tx ty acc).1 px py
        = (pixel acc.1 px py ^^ decide (px = tx ∧ py = ty ∧ tx < 64 ∧ ty < 32))
      ∧ (togglePixel tx ty acc).2 = (acc.2 || pixel acc.1 tx ty) := by
  unfold togglePixel
  by_cases h : tx < 64 ∧ ty < 32
  · rw [dif_pos h]
    refine ⟨?_, by simp [pixel, h]⟩
    rw [pixel_set]
    by_cases e : px = tx ∧ py = ty
    · obtain ⟨rfl, rfl⟩ := e
      simp [pixel, h]
    · have : ¬ (px = tx ∧ py = ty ∧ tx < 64 ∧ ty < 32) := fun f => e ⟨f.1, f.2.1⟩
      rw [if_neg e, decide_eq_false this, Bool.xor_false]
  · rw [dif_neg h]
    simp [pixel, h]

end Sys2Proof.Machine
end

