-- ==== Sys2Proof/Laws/Exec.lean ====
section
/-!
SUPPORT. Everything an instruction can do to the parts of the state that no instruction owns: it
answers a next state, and either it takes a fault of its own, or it leaves the latch alone. No
instruction writes the keypad, the configuration, the Load result or the pending events.
-/

namespace Sys2Proof.Machine

/-- `t` keeps the fault latch and everything only events write. -/
def KeepsEventState (s t : State) : Prop :=
  t.fault = s.fault ∧ t.cfg = s.cfg ∧ t.keypad = s.keypad ∧ t.loadResult = s.loadResult
    ∧ t.pending = s.pending

/-- What an instruction leaves: its own effect, or a fault of its own (60_exceptions.md R161 to R163;
only the fetch raises `PcOutOfRange`). -/
def Executed (i : Instr) (s t : State) : Prop :=
  KeepsEventState s t ∨
    ∃ c info, c ≠ .pcOutOfRange ∧ t = s.takeFault c (s.pc - 2) (encode i) info

theorem Executed.keeps {i : Instr} {s t : State} (hf : t.fault = s.fault) (hc : t.cfg = s.cfg)
    (hk : t.keypad = s.keypad) (hl : t.loadResult = s.loadResult) (hp : t.pending = s.pending) :
    Executed i s t := .inl ⟨hf, hc, hk, hl, hp⟩

theorem Executed.faults {i : Instr} (s : State) (c : FaultCause) (info : Word)
    (hc : c ≠ .pcOutOfRange) : Executed i s (s.takeFault c (s.pc - 2) (encode i) info) :=
  .inr ⟨c, info, hc, rfl⟩

theorem exec_of_jumpTo (i : Instr) (t : Word) (s : State) :
    ∃ u, jumpTo (encode i) t s = .next u ∧ Executed i s u := by
  rcases jumpTo_cases (encode i) t s with ⟨-, h⟩ | ⟨-, h⟩
  · exact ⟨_, h, .keeps rfl rfl rfl rfl rfl⟩
  · exact ⟨_, h, .faults s _ _ (by decide)⟩

/-- A meaning that first checks its range: the fault of the check, or its effect. -/
theorem exec_of_checkRange (i : Instr) (s : State) (n : Nat) (k : AccessKind) (f : State)
    (hf : KeepsEventState s f) :
    ∃ u, (match s.checkRange n k with
        | some (c, info) => raise c (encode i) info s
        | none => .next f) = (.next u : Answer) ∧ Executed i s u := by
  split
  · next c w h =>
    refine ⟨_, rfl, .faults s c w ?_⟩
    rcases State.checkRange_cases h with ⟨-, ⟨rfl, -⟩ | ⟨rfl, -⟩⟩ <;> decide
  · exact ⟨_, rfl, .inl hf⟩

/-- Every instruction answers a next state, from every state (60_exceptions.md R162, R163). -/
theorem exec_next (i : Instr) (s : State) : ∃ t, exec i s = .next t ∧ Executed i s t := by
  cases i
  case ret =>
    simp only [exec, execRet]
    rcases s.pop_cases with ⟨_, t, ht, -, he⟩ | ⟨-, hn⟩
    · rw [ht, he]; exact ⟨_, rfl, .keeps rfl rfl rfl rfl rfl⟩
    · rw [hn]; exact ⟨_, rfl, .faults s _ _ (by decide)⟩
  case jp nnn => exact exec_of_jumpTo (.jp nnn) _ s
  case jpV0 nnn => exact exec_of_jumpTo (.jpV0 nnn) _ s
  case call nnn =>
    simp only [exec, execCall]
    split
    · exact ⟨_, rfl, .faults s _ _ (by decide)⟩
    · rcases s.push_cases with ⟨_, t, ht, -, he⟩ | ⟨-, hn⟩
      · rw [ht, he]; exact ⟨_, rfl, .keeps rfl rfl rfl rfl rfl⟩
      · rw [hn]; exact ⟨_, rfl, .faults s _ _ (by decide)⟩
  case ldVxK x =>
    simp only [exec, execLdVxK]
    split <;> exact ⟨_, rfl, .keeps rfl rfl rfl rfl rfl⟩
  case drw x y n => exact exec_of_checkRange (.drw x y n) s _ _ _ ⟨rfl, rfl, rfl, rfl, rfl⟩
  case ldB x => exact exec_of_checkRange (.ldB x) s _ _ _ (by simp [KeepsEventState])
  case storeRegs x => exact exec_of_checkRange (.storeRegs x) s _ _ _ (by simp [KeepsEventState])
  case loadRegs x => exact exec_of_checkRange (.loadRegs x) s _ _ _ (by simp [KeepsEventState])
  case seImm x nn => exact ⟨_, skipIf_eq _ _, .keeps rfl rfl rfl rfl rfl⟩
  case sneImm x nn => exact ⟨_, skipIf_eq _ _, .keeps rfl rfl rfl rfl rfl⟩
  case seReg x y => exact ⟨_, skipIf_eq _ _, .keeps rfl rfl rfl rfl rfl⟩
  case sneReg x y => exact ⟨_, skipIf_eq _ _, .keeps rfl rfl rfl rfl rfl⟩
  case skp x => exact ⟨_, skipIf_eq _ _, .keeps rfl rfl rfl rfl rfl⟩
  case sknp x => exact ⟨_, skipIf_eq _ _, .keeps rfl rfl rfl rfl rfl⟩
  all_goals exact ⟨_, rfl, .keeps rfl rfl rfl rfl rfl⟩

/-- A decoded word answers a next state: an instruction's, or the unknown word's no-op. -/
theorem execDecoded_next (d : Decoded) (s : State) : ∃ t, execDecoded d s = .next t := by
  cases d with
  | instr i => exact (exec_next i s).imp fun _ h => h.1
  | unknown op => exact ⟨_, rfl⟩

end Sys2Proof.Machine
end

