-- ==== Sys2Proof/Laws/Frames.lean ====
section
/-!
SUPPORT. The frame of each named operation, in the terms of Safety.lean, and how frames compose.
-/

namespace Sys2Proof.Machine

/-- A part that is the same in two steps is the same across both. -/
theorem Part.same_trans {p : Part} {s t u : State} (h : p.same s t) (h' : p.same t u) :
    p.same s u := by
  cases p <;> simp only [Part.same] at h h' ⊢
  case regs => exact fun r => (h' r).trans (h r)
  case memory => exact fun a => (h' a).trans (h a)
  case stack => exact ⟨h'.1.trans h.1, h'.2.trans h.2⟩
  all_goals exact h'.trans h

/-- What two operations in a row leave unchanged. -/
theorem SameBut.trans {ps qs : List Part} {s t u : State} (h : SameBut ps s t)
    (h' : SameBut qs t u) : SameBut (ps ++ qs) s u := fun p hp =>
  Part.same_trans (h p fun e => hp (List.mem_append_left _ e))
    (h' p fun e => hp (List.mem_append_right _ e))

/-- A frame that allows more. -/
theorem SameBut.mono {ps qs : List Part} {s t : State} (h : SameBut ps s t)
    (hsub : ∀ p ∈ ps, p ∈ qs) : SameBut qs s t := fun p hp => h p fun e => hp (hsub p e)

theorem SameBut.setV (s : State) (x : Nibble) (b : Byte) : SameBut [.regs] s (s.setV x b) := by
  intro p hp
  cases p <;> first | rfl | exact ⟨rfl, rfl⟩ | exact fun _ => rfl | simp at hp

theorem SameBut.setResultFlag (s : State) (x : Nibble) (r f : Byte) : SameBut [.regs] s (s.setResultFlag x r f) := by
  intro p hp
  cases p <;> first | rfl | exact ⟨rfl, rfl⟩ | exact fun _ => rfl | simp at hp

theorem SameBut.setI (s : State) (w : Word) : SameBut [.index] s (s.setI w) := by
  intro p hp
  cases p <;> first | rfl | exact ⟨rfl, rfl⟩ | exact fun _ => rfl | simp at hp

theorem SameBut.setPc (s : State) (w : Word) : SameBut [.pc] s (s.setPc w) := by
  intro p hp
  cases p <;> first | rfl | exact ⟨rfl, rfl⟩ | exact fun _ => rfl | simp at hp

theorem SameBut.diag (s : State) (op : Word) : SameBut [.tickResult] s (s.diag op) := by
  intro p hp
  cases p <;> first | rfl | exact ⟨rfl, rfl⟩ | exact fun _ => rfl | simp at hp

theorem SameBut.display (s : State) (fb : Framebuffer) : SameBut [.display, .redraw] s (s.display fb) := by
  intro p hp
  cases p <;> first | rfl | exact ⟨rfl, rfl⟩ | exact fun _ => rfl | simp at hp

theorem SameBut.writeByte (s : State) (a : Nat) (b : Byte) : SameBut [.memory] s (s.writeByte a b) := by
  intro p hp
  cases p <;> first | rfl | exact ⟨rfl, rfl⟩ | exact fun _ => rfl | simp at hp

theorem SameBut.timer60 (s : State) : SameBut [.delayTimer, .soundTimer] s (s.timer60) := by
  intro p hp
  cases p <;> first | rfl | exact ⟨rfl, rfl⟩ | exact fun _ => rfl | simp at hp

theorem SameBut.keySet (s : State) (k : Fin 16) (b : Bool) : SameBut [.keypad] s (s.keySet k b) := by
  intro p hp
  cases p <;> first | rfl | exact ⟨rfl, rfl⟩ | exact fun _ => rfl | simp at hp

theorem SameBut.redrawAck (s : State) : SameBut [.redraw] s (s.redrawAck) := by
  intro p hp
  cases p <;> first | rfl | exact ⟨rfl, rfl⟩ | exact fun _ => rfl | simp at hp

theorem SameBut.afterFetch (s : State) : SameBut [.pc, .tickResult] s (s.afterFetch) := by
  intro p hp
  cases p <;> first | rfl | exact ⟨rfl, rfl⟩ | exact fun _ => rfl | simp at hp

theorem SameBut.takeFault (s : State) (c : FaultCause) (ia op info : Word) : SameBut [.pc, .latch, .tickResult] s (s.takeFault c ia op info) := by
  intro p hp
  cases p <;> first | rfl | exact ⟨rfl, rfl⟩ | exact fun _ => rfl | simp at hp

theorem SameBut.writeBytes (s : State) (a : Nat) (bs : List Byte) :
    SameBut [.memory] s (s.writeBytes a bs) := by
  intro p hp
  rw [State.writeBytes_frame]
  cases p <;> first | rfl | exact ⟨rfl, rfl⟩ | exact fun _ => rfl | simp at hp

theorem SameBut.setRegs (s : State) (k : Nat) (bs : List Byte) :
    SameBut [.regs] s (s.setRegs k bs) := by
  intro p hp
  rw [State.setRegs_frame]
  cases p <;> first | rfl | exact ⟨rfl, rfl⟩ | exact fun _ => rfl | simp at hp

/-- A write of one register keeps every other. -/
theorem RegsSameBut.setV (s : State) (x : Nibble) (b : Byte) : RegsSameBut [x] s (s.setV x b) :=
  fun _ h => State.getV_setV_ne s b (by simpa using h)

/-- A result with a flag keeps every register but the destination and `VF`. -/
theorem RegsSameBut.setResultFlag (s : State) (x : Nibble) (r f : Byte) :
    RegsSameBut [x, 0xF] s (s.setResultFlag x r f) := by
  intro q h
  simp only [List.mem_cons, List.not_mem_nil, or_false, not_or] at h
  rw [State.getV_setResultFlag, if_neg (show ¬ q = vf from h.2), if_neg h.1]

/-- Fault entry, in the instruction whose meaning sees `s`, leaves what a fault leaves. -/
theorem FaultTaken.takeFault (s : State) (c : FaultCause) (op info : Word) :
    FaultTaken c.code op info s (s.takeFault c (s.pc - 2) op info) :=
  ⟨rfl, rfl, rfl, SameBut.takeFault _ _ _ _ _⟩

end Sys2Proof.Machine
end

