-- ==== Sys2Proof/Laws/PerInstr.lean ====
section
/-!
SUPPORT. Per instruction: the word an instruction encodes to matches its row of the opcode map, that is,
`(op AND mask) == match` (30_encoding.md R64, R65).
-/

namespace Sys2Proof.Laws

/-- The mask column of the opcode map. -/
def TableRow.mask : Instr → Word
  | .cls | .ret => 0xFFFF
  | .jp _ | .call _ | .ldI _ | .jpV0 _ | .sys _ => 0xF000
  | .seImm _ _ | .sneImm _ _ | .ldImm _ _ | .addImm _ _ | .rnd _ _ => 0xF000
  | .drw _ _ _ => 0xF000
  | .seReg _ _ | .sneReg _ _ | .ldReg _ _ | .orReg _ _ | .andReg _ _ | .xorReg _ _ => 0xF00F
  | .addReg _ _ | .sub _ _ | .shr _ _ | .subn _ _ | .shl _ _ => 0xF00F
  | .skp _ | .sknp _ | .ldVxDt _ | .ldVxK _ | .ldDtVx _ | .ldStVx _ => 0xF0FF
  | .addI _ | .ldF _ | .ldB _ | .storeRegs _ | .loadRegs _ => 0xF0FF

/-- The match column of the opcode map. -/
def TableRow.pattern : Instr → Word
  | .cls => 0x00E0
  | .ret => 0x00EE
  | .jp _ => 0x1000
  | .call _ => 0x2000
  | .seImm _ _ => 0x3000
  | .sneImm _ _ => 0x4000
  | .seReg _ _ => 0x5000
  | .ldImm _ _ => 0x6000
  | .addImm _ _ => 0x7000
  | .ldReg _ _ => 0x8000
  | .orReg _ _ => 0x8001
  | .andReg _ _ => 0x8002
  | .xorReg _ _ => 0x8003
  | .addReg _ _ => 0x8004
  | .sub _ _ => 0x8005
  | .shr _ _ => 0x8006
  | .subn _ _ => 0x8007
  | .shl _ _ => 0x800E
  | .sneReg _ _ => 0x9000
  | .ldI _ => 0xA000
  | .jpV0 _ => 0xB000
  | .rnd _ _ => 0xC000
  | .drw _ _ _ => 0xD000
  | .skp _ => 0xE09E
  | .sknp _ => 0xE0A1
  | .ldVxDt _ => 0xF007
  | .ldVxK _ => 0xF00A
  | .ldDtVx _ => 0xF015
  | .ldStVx _ => 0xF018
  | .addI _ => 0xF01E
  | .ldF _ => 0xF029
  | .ldB _ => 0xF033
  | .storeRegs _ => 0xF055
  | .loadRegs _ => 0xF065
  | .sys _ => 0x0000

/-- The word of the instruction matches its row. -/
def TableRow.Statement (i : Instr) : Prop := encode i &&& TableRow.mask i = TableRow.pattern i

/-- Masking a word masks its fields. -/
theorem and_encNNN (c m : Nibble) (nnn k : Addr12) :
    encNNN c nnn &&& encNNN m k = encNNN (c &&& m) (nnn &&& k) := by
  refine BitVec.eq_of_getLsbD_eq fun j _ => ?_
  simp only [BitVec.getLsbD_and, bit_encNNN]
  split_ifs <;> rfl

theorem and_encXNN (c x m k : Nibble) (nn l : Byte) :
    encXNN c x nn &&& encXNN m k l = encXNN (c &&& m) (x &&& k) (nn &&& l) := by
  refine BitVec.eq_of_getLsbD_eq fun j _ => ?_
  simp only [BitVec.getLsbD_and, bit_encXNN]
  split_ifs <;> rfl

theorem and_encXYN (c x y n m k l j : Nibble) :
    encXYN c x y n &&& encXYN m k l j = encXYN (c &&& m) (x &&& k) (y &&& l) (n &&& j) := by
  refine BitVec.eq_of_getLsbD_eq fun q _ => ?_
  simp only [BitVec.getLsbD_and, bit_encXYN]
  split_ifs <;> rfl

theorem and_ones4 (c : Nibble) : c &&& 15#4 = c := BitVec.and_allOnes
theorem and_ones8 (b : Byte) : b &&& 255#8 = b := BitVec.and_allOnes

/-! ### The masks of the opcode map -/

theorem row_encNNN (c : Nibble) (nnn : Addr12) : encNNN c nnn &&& 0xF000 = encNNN c 0 := by
  rw [show (0xF000 : Word) = encNNN 0xF 0x000 from rfl, and_encNNN]
  congr 1 <;> simp [and_ones4]

theorem row_encXNN (c x : Nibble) (nn : Byte) : encXNN c x nn &&& 0xF000 = encXNN c 0 0 := by
  rw [show (0xF000 : Word) = encXNN 0xF 0x0 0x00 from rfl, and_encXNN]
  congr 1 <;> simp [and_ones4]

theorem row_encX (c x : Nibble) (nn : Byte) : encXNN c x nn &&& 0xF0FF = encXNN c 0 nn := by
  rw [show (0xF0FF : Word) = encXNN 0xF 0x0 0xFF from rfl, and_encXNN]
  congr 1 <;> simp [and_ones4, and_ones8]

theorem row_encXYN (c x y n : Nibble) : encXYN c x y n &&& 0xF000 = encXYN c 0 0 0 := by
  rw [show (0xF000 : Word) = encXYN 0xF 0x0 0x0 0x0 from rfl, and_encXYN]
  congr 1 <;> simp [and_ones4]

theorem row_encXY (c x y n : Nibble) : encXYN c x y n &&& 0xF00F = encXYN c 0 0 n := by
  rw [show (0xF00F : Word) = encXYN 0xF 0x0 0x0 0xF from rfl, and_encXYN]
  congr 1 <;> simp [and_ones4]

namespace TableRow

theorem cls : Statement .cls := by unfold Statement; decide
theorem ret : Statement .ret := by unfold Statement; decide
theorem jp (nnn : Addr12) : Statement (.jp nnn) := row_encNNN _ nnn
theorem call (nnn : Addr12) : Statement (.call nnn) := row_encNNN _ nnn
theorem ldI (nnn : Addr12) : Statement (.ldI nnn) := row_encNNN _ nnn
theorem jpV0 (nnn : Addr12) : Statement (.jpV0 nnn) := row_encNNN _ nnn
theorem sys (nnn : Addr12) : Statement (.sys nnn) := row_encNNN _ nnn
theorem seImm (x : Nibble) (nn : Byte) : Statement (.seImm x nn) := row_encXNN _ x nn
theorem sneImm (x : Nibble) (nn : Byte) : Statement (.sneImm x nn) := row_encXNN _ x nn
theorem ldImm (x : Nibble) (nn : Byte) : Statement (.ldImm x nn) := row_encXNN _ x nn
theorem addImm (x : Nibble) (nn : Byte) : Statement (.addImm x nn) := row_encXNN _ x nn
theorem rnd (x : Nibble) (nn : Byte) : Statement (.rnd x nn) := row_encXNN _ x nn
theorem seReg (x y : Nibble) : Statement (.seReg x y) := row_encXY _ x y _
theorem sneReg (x y : Nibble) : Statement (.sneReg x y) := row_encXY _ x y _
theorem ldReg (x y : Nibble) : Statement (.ldReg x y) := row_encXY _ x y _
theorem orReg (x y : Nibble) : Statement (.orReg x y) := row_encXY _ x y _
theorem andReg (x y : Nibble) : Statement (.andReg x y) := row_encXY _ x y _
theorem xorReg (x y : Nibble) : Statement (.xorReg x y) := row_encXY _ x y _
theorem addReg (x y : Nibble) : Statement (.addReg x y) := row_encXY _ x y _
theorem sub (x y : Nibble) : Statement (.sub x y) := row_encXY _ x y _
theorem shr (x y : Nibble) : Statement (.shr x y) := row_encXY _ x y _
theorem subn (x y : Nibble) : Statement (.subn x y) := row_encXY _ x y _
theorem shl (x y : Nibble) : Statement (.shl x y) := row_encXY _ x y _
theorem drw (x y n : Nibble) : Statement (.drw x y n) := row_encXYN _ x y n
theorem skp (x : Nibble) : Statement (.skp x) := row_encX _ x _
theorem sknp (x : Nibble) : Statement (.sknp x) := row_encX _ x _
theorem ldVxDt (x : Nibble) : Statement (.ldVxDt x) := row_encX _ x _
theorem ldVxK (x : Nibble) : Statement (.ldVxK x) := row_encX _ x _
theorem ldDtVx (x : Nibble) : Statement (.ldDtVx x) := row_encX _ x _
theorem ldStVx (x : Nibble) : Statement (.ldStVx x) := row_encX _ x _
theorem addI (x : Nibble) : Statement (.addI x) := row_encX _ x _
theorem ldF (x : Nibble) : Statement (.ldF x) := row_encX _ x _
theorem ldB (x : Nibble) : Statement (.ldB x) := row_encX _ x _
theorem storeRegs (x : Nibble) : Statement (.storeRegs x) := row_encX _ x _
theorem loadRegs (x : Nibble) : Statement (.loadRegs x) := row_encX _ x _

end TableRow

end Sys2Proof.Laws
end

