-- ==== Sys2Proof/Laws/Tick.lean ====
section
/-!
SUPPORT. What a Tick and a step can do, once.
-/

namespace Sys2Proof.Machine

/-- A Tick of a FAULTED core (60_exceptions.md R164). -/
theorem tick_faulted {s : State} (h : s.fault.valid = true) :
    tick s = .next { s with tickResult := .fault s.fault.cause } := by simp [tick, h]

/-- A Tick of a RUNNING core whose `pc` is out of range (20_memory.md R46). -/
theorem tick_outOfRange {s : State} (hf : s.fault.valid = false) (h : s.pcOutOfRange = true) :
    tick s = .next (s.takeFault .pcOutOfRange s.pc 0 s.pc) := by simp [tick, hf, h]

/-- A Tick of a RUNNING core whose `pc` can be fetched from. -/
theorem tick_fetched {s : State} (hf : s.fault.valid = false) (h : s.pcOutOfRange = false)
    (he : misaligned s.pc = false) :
    tick s = execDecoded (decodeWord s.fetchWord) s.afterFetch := by simp [tick, hf, h, he]

/-- `pc` is in range for the fetch. -/
theorem State.pcOutOfRange_eq_false (s : State) :
    s.pcOutOfRange = false ↔ 0x200 ≤ s.pc.toNat ∧ s.pc.toNat ≤ 0xFFE := by
  simp [State.pcOutOfRange]

/-- The four things a Tick can be. -/
theorem tick_cases (s : State) :
    (s.fault.valid = true ∧ tick s = .next { s with tickResult := .fault s.fault.cause }) ∨
    (s.fault.valid = false ∧ s.pcOutOfRange = true ∧
      tick s = .next (s.takeFault .pcOutOfRange s.pc 0 s.pc)) ∨
    (s.fault.valid = false ∧ s.pcOutOfRange = false ∧ misaligned s.pc = true ∧
      tick s = .fault (.misalignedFetch s.pc)) ∨
    (s.fault.valid = false ∧ s.pcOutOfRange = false ∧ misaligned s.pc = false ∧
      tick s = execDecoded (decodeWord s.fetchWord) s.afterFetch) := by
  unfold tick
  cases s.fault.valid <;> cases s.pcOutOfRange <;> cases misaligned s.pc <;> simp

/-- A step is the oldest pending event, or a Tick. -/
theorem step_cases (s : State) :
    (s.pending = [] ∧ step s = tick s) ∨
    (∃ e rest, s.pending = e :: rest ∧ step s = applyEvent e { s with pending := rest }) := by
  unfold step advance
  cases s.pending <;> simp

end Sys2Proof.Machine
end

