-- ==== Sys2Proof/Tests/Slice0.lean ====
section
/-!
SUPPORT. Tests. Every expected result is written from the spec: a word from the encodings of
30_encoding.md R61 and R65, bit by bit, and a result from a vector of 95_test_vectors.md or from the
rule named beside it. The theorems named `witness_…` show for each statement with hypotheses a
concrete state and operands that meet them, clause by clause, at boundary values.
-/

namespace Sys2Proof.Tests

open Sys2Proof.Machine

set_option Elab.async false

/-! ### WellFormed and the encoding -/

/-- An ill-formed term for the one check of WellFormed: 00E0 is CLS and 00EE is RET, not SYS
(46_unknown_opcode.md R151). -/
theorem test_wellFormed_refuses_sys_of_cls_and_ret :
    (Instr.sys 0x0E0).wellFormed = false ∧ (Instr.sys 0x0EE).wellFormed = false
    ∧ (Instr.sys 0x0E1).wellFormed = true ∧ (Instr.sys 0x000).wellFormed = true := by decide

theorem test_decode_class_0_to_2 :
    decodeBytes 0b00000000 0b11100000 = .instr .cls
    ∧ decodeBytes 0b00000000 0b11101110 = .instr .ret
    ∧ decodeBytes 0b00000001 0b00100011 = .instr (.sys 0x123)
    ∧ decodeBytes 0b00010010 0b00001000 = .instr (.jp 0x208)
    ∧ decodeBytes 0b00100010 0b00000100 = .instr (.call 0x204) := by decide

theorem test_decode_skips :
    decodeBytes 0b00110001 0b00100011 = .instr (.seImm 1 0x23)
    ∧ decodeBytes 0b01000011 0b00010000 = .instr (.sneImm 3 0x10)
    ∧ decodeBytes 0b01010001 0b00100000 = .instr (.seReg 1 2)
    ∧ decodeBytes 0b10010001 0b00100000 = .instr (.sneReg 1 2)
    ∧ decodeBytes 0b11100101 0b10011110 = .instr (.skp 5)
    ∧ decodeBytes 0b11100101 0b10100001 = .instr (.sknp 5) := by decide

theorem test_decode_alu :
    decodeBytes 0b01100000 0b00000101 = .instr (.ldImm 0 0x05)
    ∧ decodeBytes 0b01110010 0b10000001 = .instr (.addImm 2 0x81)
    ∧ decodeBytes 0b10000001 0b00100000 = .instr (.ldReg 1 2)
    ∧ decodeBytes 0b10000001 0b00100001 = .instr (.orReg 1 2)
    ∧ decodeBytes 0b10000001 0b00100010 = .instr (.andReg 1 2)
    ∧ decodeBytes 0b10000001 0b00100011 = .instr (.xorReg 1 2)
    ∧ decodeBytes 0b10001111 0b00010100 = .instr (.addReg 0xF 1)
    ∧ decodeBytes 0b10000001 0b00100101 = .instr (.sub 1 2)
    ∧ decodeBytes 0b10000001 0b00100110 = .instr (.shr 1 2)
    ∧ decodeBytes 0b10000001 0b00100111 = .instr (.subn 1 2)
    ∧ decodeBytes 0b10000001 0b00101110 = .instr (.shl 1 2) := by decide

theorem test_decode_class_A_to_D :
    decodeBytes 0b10100010 0b00001010 = .instr (.ldI 0x20A)
    ∧ decodeBytes 0b10110011 0b00000000 = .instr (.jpV0 0x300)
    ∧ decodeBytes 0b11000000 0b00001111 = .instr (.rnd 0 0x0F)
    ∧ decodeBytes 0b11010011 0b01000101 = .instr (.drw 3 4 5) := by decide

theorem test_decode_class_F :
    decodeBytes 0b11110011 0b00000111 = .instr (.ldVxDt 3)
    ∧ decodeBytes 0b11110001 0b00001010 = .instr (.ldVxK 1)
    ∧ decodeBytes 0b11110010 0b00010101 = .instr (.ldDtVx 2)
    ∧ decodeBytes 0b11110000 0b00011000 = .instr (.ldStVx 0)
    ∧ decodeBytes 0b11110000 0b00011110 = .instr (.addI 0)
    ∧ decodeBytes 0b11110001 0b00101001 = .instr (.ldF 1)
    ∧ decodeBytes 0b11110000 0b00110011 = .instr (.ldB 0)
    ∧ decodeBytes 0b11111111 0b01010101 = .instr (.storeRegs 0xF)
    ∧ decodeBytes 0b11110010 0b01100101 = .instr (.loadRegs 2) := by decide

/-- Minor opcodes match exactly (30_encoding.md R64): vectors 2.2 #13, 2.3 #30, 2.5 #9, 2.7. -/
theorem test_decode_unknown :
    [0x5121#16, 0x9121#16, 0x8128#16, 0x812F#16, 0xE000#16, 0xE19F#16, 0xF100#16, 0xF175#16,
      0xF10B#16, 0xFF66#16].all (fun w => decodeWord w == .unknown w) = true := by decide

/-- The table's word is read with its first byte high, and only its bits count. -/
theorem test_decodeTableWord :
    decodeTableWord 16 0x2204 = some (.call 0x204) ∧ decodeTableWord 16 0x5121 = none
    ∧ decodeTableWord 16 0x12204 = some (.call 0x204) := by decide

/-! ### One step on a small state -/

/-- The fresh state of 95_test_vectors.md with registers set. -/
def fresh (vs : List (Nibble × Byte)) : State :=
  vs.foldl (fun s v => s.setV v.1 v.2) State.reset

/-- The Tick of the word placed at `pc` answers a next state that passes the check. -/
def ticks (s : State) (w : Nat) (check : State → Bool) : Bool :=
  match step (s.withFetchWord 16 w) with
  | .next t => check t
  | _ => false

/-- The two states agree on everything but the configuration and the display. -/
def agree (s t : State) : Bool :=
  s.v == t.v && s.i == t.i && s.pc == t.pc && s.sp == t.sp && s.stack == t.stack
    && s.keypad == t.keypad && s.dt == t.dt && s.st == t.st && s.redraw == t.redraw
    && s.fault == t.fault && s.mem == t.mem && s.tickResult == t.tickResult
    && s.loadResult == t.loadResult && s.draws == t.draws && s.pending == t.pending

/-- The Tick of the word is that fault: latch and result written, everything else as it was. -/
def ticksTo (s : State) (w : Nat) (latch : FaultLatch) : Bool :=
  ticks s w fun t =>
    agree t { s.withFetchWord 16 w with fault := latch, tickResult := .fault latch.cause }

/-- The Tick of the word does that to the state and nothing else, and answers Ok. -/
def ticksOk (s : State) (w : Nat) (f : State → State) : Bool :=
  ticks s w fun t => agree t { f (s.withFetchWord 16 w) with tickResult := .ok }

/-- The display on which one pixel is on. -/
def oneOn (x : Fin 64) (y : Fin 32) : Framebuffer :=
  Framebuffer.blank.set y.val ((Vector.replicate 64 false).set x.val true)

/-- How many pixels are on. -/
def countOn (fb : Framebuffer) : Nat :=
  (fb.toList.map fun row => row.toList.countP id).sum

/-- Exactly the listed pixels are on (the list repeats none). -/
def shows (t : State) (ps : List (Nat × Nat)) : Bool :=
  ps.all (fun p => pixel t.fb p.1 p.2) && countOn t.fb == ps.length

/-- Vector 2.1 #1. -/
theorem test_cls :
    ticks { State.reset with fb := oneOn 63 31 } 0x00E0
      (fun t => shows t [] && t.redraw && t.pc == 0x202) = true := by decide +kernel

/-- Two live return addresses: 2.1 #4. -/
def twoDeep : State :=
  { State.reset with sp := 2, stack := (State.reset.stack.set 0 0x300).set 1 0x456 }

theorem test_ret_pops :
    ticksOk twoDeep 0x00EE (fun s => { s with pc := 0x456, sp := 1 }) = true := by decide +kernel

/-- 2.1 #3. -/
theorem test_ret_underflow :
    ticksTo State.reset 0x00EE ⟨true, 2, 0x200, 0x00EE, 0⟩ = true := by decide +kernel

/-- 2.1 #5 and #8. -/
theorem test_jp :
    ticksOk State.reset 0x1ABC (fun s => { s with pc := 0xABC }) = true
    ∧ ticksOk State.reset 0x1100 (fun s => { s with pc := 0x100 }) = true := by decide +kernel

/-- 2.1 #7. -/
theorem test_jp_odd :
    ticksTo State.reset 0x1201 ⟨true, 5, 0x200, 0x1201, 0x201⟩ = true := by decide +kernel

/-- A full return stack. -/
def full : State := { State.reset with sp := 16 }

/-- 2.1 #9 and #10. -/
theorem test_call :
    ticksOk State.reset 0x2300
      (fun s => { s with stack := s.stack.set 0 0x202, sp := 1, pc := 0x300 }) = true
    ∧ ticksOk { State.reset with pc := 0xFFE } 0x2300
      (fun s => { s with stack := s.stack.set 0 0x1000, sp := 1, pc := 0x300 }) = true := by decide +kernel

/-- 2.1 #11 and #12: the odd target is reported before the full stack. -/
theorem test_call_faults :
    ticksTo full 0x2200 ⟨true, 1, 0x200, 0x2200, 0x200⟩ = true
    ∧ ticksTo full 0x2201 ⟨true, 5, 0x200, 0x2201, 0x201⟩ = true := by decide +kernel

/-- 2.1 #13, #14 and #16. -/
theorem test_jpV0 :
    ticksOk (fresh [(0, 4)]) 0xB300 (fun s => { s with pc := 0x304 }) = true
    ∧ ticksOk (fresh [(0, 0xFF)]) 0xBFFF (fun s => { s with pc := 0x10FE }) = true
    ∧ ticksOk { fresh [(3, 4), (0, 9)] with cfg := { defaultConfig with jumpOffsetVx := true } } 0xB300
        (fun s => { s with pc := 0x304 }) = true := by decide +kernel

/-- 2.1 #15. -/
theorem test_jpV0_odd :
    ticksTo (fresh [(0, 1)]) 0xB200 ⟨true, 5, 0x200, 0xB200, 0x201⟩ = true := by decide +kernel

/-- 2.2 #1 to #4. -/
theorem test_immediate_skips :
    ticksOk (fresh [(0, 5)]) 0x3005 (fun s => { s with pc := 0x204 }) = true
    ∧ ticksOk (fresh [(0, 5)]) 0x3006 (fun s => { s with pc := 0x202 }) = true
    ∧ ticksOk (fresh [(0, 5)]) 0x4006 (fun s => { s with pc := 0x204 }) = true
    ∧ ticksOk (fresh [(0, 5)]) 0x4005 (fun s => { s with pc := 0x202 }) = true := by decide +kernel

/-- 2.2 #5 to #8. -/
theorem test_register_skips :
    ticksOk (fresh [(0, 5), (1, 5)]) 0x5010 (fun s => { s with pc := 0x204 }) = true
    ∧ ticksOk (fresh [(3, 9)]) 0x5330 (fun s => { s with pc := 0x204 }) = true
    ∧ ticksOk (fresh [(0, 5), (1, 6)]) 0x9010 (fun s => { s with pc := 0x204 }) = true
    ∧ ticksOk (fresh [(3, 9)]) 0x9330 (fun s => { s with pc := 0x202 }) = true := by decide +kernel

/-- Keys 3 and 9 are held. -/
def keysHeld (vs : List (Nibble × Byte)) : State :=
  { fresh vs with keypad := ((fresh vs).keypad.set 3 true).set 9 true }

/-- 2.2 #9 to #11. -/
theorem test_key_skips :
    ticksOk (keysHeld [(0, 0x13)]) 0xE09E (fun s => { s with pc := 0x204 }) = true
    ∧ ticksOk (keysHeld [(0, 0x13)]) 0xE0A1 (fun s => { s with pc := 0x202 }) = true
    ∧ ticksOk (keysHeld []) 0xE1A1 (fun s => { s with pc := 0x204 }) = true
    ∧ ticksOk (keysHeld []) 0xE19E (fun s => { s with pc := 0x202 }) = true := by decide +kernel

/-- 2.2 #12: a taken skip at 0xFFC. -/
theorem test_skip_to_the_end :
    ticksOk { State.reset with pc := 0xFFC } 0x3000 (fun s => { s with pc := 0x1000 }) = true := by decide +kernel

/-- The registers after the Tick of the word are those of `fresh vs'`, and `pc` is past it. -/
def aluTo (vs : List (Nibble × Byte)) (w : Nat) (vs' : List (Nibble × Byte)) : Bool :=
  ticksOk (fresh vs) w fun s => { s with v := (fresh vs').v, pc := 0x202 }

/-- 2.3 #1. -/
theorem test_ldImm : aluTo [] 0x6AFF [(0xA, 0xFF)] = true := by decide +kernel

/-- 2.3 #2 and #3. -/
theorem test_addImm :
    aluTo [(0, 0xFF)] 0x7002 [(0, 1)] = true ∧ aluTo [] 0x7FFF [(0xF, 0xFF)] = true := by decide +kernel

/-- 2.3 #4. -/
theorem test_ldReg : aluTo [(2, 0x33)] 0x8120 [(1, 0x33), (2, 0x33)] = true := by decide +kernel

/-- 2.3 #5 to #8. -/
theorem test_logic :
    aluTo [(1, 0xF0), (2, 0x0F), (0xF, 0x55)] 0x8121 [(1, 0xFF), (2, 0x0F), (0xF, 0x55)] = true
    ∧ aluTo [(1, 0xF3), (2, 0x3F)] 0x8122 [(1, 0x33), (2, 0x3F)] = true
    ∧ aluTo [(1, 0xFF), (2, 0x0F)] 0x8123 [(1, 0xF0), (2, 0x0F)] = true
    ∧ aluTo [(1, 0xA5)] 0x8113 [(1, 0)] = true := by decide +kernel

/-- 2.3 #9 to #11 and #14. -/
theorem test_addReg :
    aluTo [(0, 0xFF), (1, 1)] 0x8014 [(0, 0), (1, 1), (0xF, 1)] = true
    ∧ aluTo [(0, 0xFE), (1, 1)] 0x8014 [(0, 0xFF), (1, 1), (0xF, 0)] = true
    ∧ aluTo [(0, 0x80)] 0x8004 [(0, 0), (0xF, 1)] = true
    ∧ aluTo [(0, 0x10), (0xF, 5)] 0x80F4 [(0, 0x15), (0xF, 0)] = true := by decide +kernel

/-- 2.3 #12, #13, #18, #19 and #29: the flag is what stays in `VF`. -/
theorem test_flag_last :
    aluTo [(0xF, 0x90)] 0x8FF4 [(0xF, 1)] = true
    ∧ aluTo [(0xF, 1), (1, 0x7F)] 0x8F14 [(0xF, 0), (1, 0x7F)] = true
    ∧ aluTo [(0xF, 3), (1, 1)] 0x8F15 [(0xF, 1), (1, 1)] = true
    ∧ aluTo [(0xF, 1), (1, 3)] 0x8F15 [(0xF, 0), (1, 3)] = true
    ∧ aluTo [(0xF, 0x81)] 0x8FFE [(0xF, 1)] = true := by decide +kernel

/-- 2.3 #15 to #17, and #20, #21. -/
theorem test_subtractions :
    aluTo [(0, 1), (1, 2)] 0x8015 [(0, 0xFF), (1, 2), (0xF, 0)] = true
    ∧ aluTo [(0, 7), (1, 7)] 0x8015 [(0, 0), (1, 7), (0xF, 1)] = true
    ∧ aluTo [(0, 0x80)] 0x8005 [(0, 0), (0xF, 1)] = true
    ∧ aluTo [(0, 1), (1, 2)] 0x8017 [(0, 1), (1, 2), (0xF, 1)] = true
    ∧ aluTo [(0, 5), (1, 2)] 0x8017 [(0, 0xFD), (1, 2), (0xF, 0)] = true := by decide +kernel

/-- 2.3 #22 to #24, #26 and #27. -/
theorem test_shifts :
    aluTo [(0, 0xFF)] 0x8106 [(0, 0xFF), (1, 0x7F), (0xF, 1)] = true
    ∧ aluTo [(0, 3)] 0x8006 [(0, 1), (0xF, 1)] = true
    ∧ aluTo [(0xF, 7), (1, 2)] 0x81F6 [(0xF, 1), (1, 3)] = true
    ∧ aluTo [(2, 0x81)] 0x812E [(2, 0x81), (1, 2), (0xF, 1)] = true
    ∧ aluTo [(0, 0x81), (1, 0x40)] 0x801E [(0, 0x80), (1, 0x40), (0xF, 0)] = true := by decide +kernel

/-- The fresh state of a machine whose shifts shift `V[X]` and whose block accesses keep `I`. -/
def otherQuirks (vs : List (Nibble × Byte)) (i : Word) : State :=
  { fresh vs with
    i := i, cfg := { defaultConfig with shiftSourceVy := false, loadStoreAdvancesI := false } }

/-- 2.3 #25 and #28. -/
theorem test_shifts_of_vx :
    ticks (otherQuirks [(0, 0xFF), (1, 4)] 0) 0x8106
      (fun t => t.getV 1 == 2 && t.getV 0xF == 0) = true
    ∧ ticks (otherQuirks [(0, 0x81), (1, 0x40)] 0) 0x801E
      (fun t => t.getV 0 == 2 && t.getV 0xF == 1) = true := by decide +kernel

/-- 2.4 #1: with `NN = 0` the result is 0 for every draw. -/
theorem test_rnd_masks_all (s : State) :
    ∃ t, exec (.rnd 0 0) s = .next t ∧ t.getV 0 = 0 := ⟨_, rfl, by simp [State.getV, State.setV]⟩

/-- 2.4 #3: with `NN = 0xFF` the result is the draw itself, and the next draw is another. -/
theorem test_rnd_is_the_draw (s : State) :
    ∃ t, exec (.rnd 1 0xFF) s = .next t ∧ t.getV 1 = Config.drawByte s.draws ∧ t.draws = s.draws + 1 :=
  ⟨_, rfl, by
    have : ∀ b : Byte, b &&& 255#8 = b := by decide
    simp [State.getV, State.setV, this], rfl⟩

/-- A sprite byte at 0x300, and `I` there. -/
def sprite (b : Byte) (x y : Byte) (wrap : Bool) (fb : Framebuffer) : State :=
  { (fresh [(0, x), (1, y)]).writeByte 0x300 b with
    i := 0x300, fb := fb, cfg := { defaultConfig with drawWrap := wrap } }

/-- The Tick of D011 shows that display with that `VF`, and raises `redraw`. -/
def drawsTo (s : State) (ps : List (Nat × Nat)) (flag : Byte) : Bool :=
  ticks s 0xD011 fun t => shows t ps && t.getV 0xF == flag && t.redraw && t.pc == 0x202

/-- 2.4 #5 to #9: clip and wrap at the right edge. -/
theorem test_drw_edges :
    drawsTo (sprite 0xC0 62 31 false Framebuffer.blank) [(62, 31), (63, 31)] 0 = true
    ∧ drawsTo (sprite 0xC0 63 31 false Framebuffer.blank) [(63, 31)] 0 = true
    ∧ drawsTo (sprite 0xC0 63 31 true Framebuffer.blank) [(63, 31), (0, 31)] 0 = true
    ∧ drawsTo (sprite 0xC0 64 31 false Framebuffer.blank) [] 0 = true
    ∧ drawsTo (sprite 0xC0 64 31 true Framebuffer.blank) [(0, 31), (1, 31)] 0 = true := by decide +kernel

/-- 2.4 #12 and #13: a collision is a set bit over a pixel that was on. -/
theorem test_drw_collision :
    drawsTo (sprite 0xFF 0 0 false (oneOn 0 0))
      [(1, 0), (2, 0), (3, 0), (4, 0), (5, 0), (6, 0), (7, 0)] 1 = true
    ∧ drawsTo (sprite 0x7F 0 0 false (oneOn 0 0))
      [(0, 0), (1, 0), (2, 0), (3, 0), (4, 0), (5, 0), (6, 0), (7, 0)] 0 = true := by decide +kernel

/-- 2.4 #10 and #11: rows at the bottom edge. -/
theorem test_drw_rows :
    ticks ((sprite 0x80 0 31 false Framebuffer.blank).writeByte 0x301 0x80) 0xD012
      (fun t => shows t [(0, 31)]) = true
    ∧ ticks ((sprite 0x80 0 31 true Framebuffer.blank).writeByte 0x301 0x80) 0xD012
      (fun t => shows t [(0, 31), (0, 0)]) = true := by decide +kernel

/-- 2.4 #14 to #16: old `VF` as coordinate, no rows, and the last byte of memory. -/
theorem test_drw_corners :
    ticks { (fresh [(0xF, 3)]).writeByte 0x300 0x80 with i := 0x300 } 0xDFF1
      (fun t => shows t [(3, 3)] && t.getV 0xF == 0) = true
    ∧ ticks { fresh [(0xF, 5)] with i := 0x1000 } 0xD010
      (fun t => shows t [] && t.getV 0xF == 0 && t.redraw && t.tickResult == .ok) = true
    ∧ ticks { fresh [(0xF, 5)] with i := 0xFFF } 0xD011
      (fun t => shows t [] && t.getV 0xF == 0 && t.redraw && t.tickResult == .ok) = true := by decide +kernel

/-- 2.4 #17. -/
theorem test_drw_overflow :
    ticksTo { fresh [(0xF, 5)] with i := 0xFFF } 0xD012 ⟨true, 3, 0x200, 0xD012, 0xFFF⟩ = true := by decide +kernel

/-- 2.5 #1 to #3. -/
theorem test_timer_registers :
    ticksOk { State.reset with dt := 0x2A } 0xF007
      (fun s => { s.setV 0 0x2A with pc := 0x202 }) = true
    ∧ ticksOk (fresh [(1, 0xFF)]) 0xF115 (fun s => { s with dt := 0xFF, pc := 0x202 }) = true
    ∧ ticksOk { State.reset with st := 9 } 0xF118 (fun s => { s with st := 0, pc := 0x202 }) = true
    ∧ ticks (fresh [(0, 3)]) 0xF018 (fun t => t.soundOn && t.st == 3) = true := by decide +kernel

/-- 2.5 #4: no key. -/
theorem test_ldVxK_waits : ticksOk State.reset 0xF10A id = true := by decide +kernel

/-- 2.5 #5 and #6, with keys 3 and 9: the lowest pressed index. -/
theorem test_ldVxK_takes :
    ticksOk (keysHeld []) 0xF10A (fun s => { s.setV 1 3 with pc := 0x202 }) = true
    ∧ ticksOk { keysHeld [(1, 7)] with keypad := (keysHeld []).keypad.set 0 true } 0xF10A
      (fun s => { s.setV 1 0 with pc := 0x202 }) = true := by decide +kernel

/-- 2.6 #1 to #5. -/
theorem test_index :
    ticksOk State.reset 0xAFFF (fun s => { s with i := 0xFFF, pc := 0x202 }) = true
    ∧ ticksOk { fresh [(0, 5)] with i := 0xFFE } 0xF01E
      (fun s => { s with i := 0x1003, pc := 0x202 }) = true
    ∧ ticksOk { fresh [(0, 1)] with i := 0xFFFF } 0xF01E
      (fun s => { s with i := 0, pc := 0x202 }) = true
    ∧ ticksOk (fresh [(1, 2)]) 0xF129 (fun s => { s with i := 0x5A, pc := 0x202 }) = true
    ∧ ticksOk (fresh [(1, 0x1F)]) 0xF129 (fun s => { s with i := 0x9B, pc := 0x202 }) = true := by decide +kernel

/-- `fresh` with `I` set. -/
def atI (vs : List (Nibble × Byte)) (i : Word) : State := { fresh vs with i := i }

/-- 2.6 #6, #7, #11 and #12. -/
theorem test_ldB :
    ticks (atI [(0, 0x7B)] 0x300) 0xF033 (fun t => t.readBytes 0x2FF 5 == [0, 1, 2, 3, 0]) = true
    ∧ ticks (atI [(0, 0xFF)] 0xFFD) 0xF033 (fun t => t.readBytes 0xFFD 3 == [2, 5, 5]) = true
    ∧ ticks (atI [(0, 255)] 0x04D) 0xF033
      (fun t => t.readBytes 0x04D 4 == [2, 5, 5, 0xF0] && t.tickResult == .ok) = true
    ∧ ticks (atI [(0, 9)] 0x0A0) 0xF033 (fun t => t.readBytes 0x0A0 3 == [0, 0, 9]) = true := by decide +kernel

/-- 2.6 #8 to #10. -/
theorem test_ldB_faults :
    ticksTo (atI [(0, 0xFF)] 0xFFE) 0xF033 ⟨true, 3, 0x200, 0xF033, 0xFFE⟩ = true
    ∧ ticksTo (atI [(0, 0xFF)] 0x04E) 0xF033 ⟨true, 6, 0x200, 0xF033, 0x050⟩ = true
    ∧ ticksTo (atI [(0, 0xFF)] 0x09F) 0xF033 ⟨true, 6, 0x200, 0xF033, 0x09F⟩ = true := by decide +kernel

/-- 2.6 #13 to #15. -/
theorem test_storeRegs :
    ticks (atI [(0, 0xAA), (1, 0xBB)] 0x400) 0xF155
      (fun t => t.readBytes 0x400 3 == [0xAA, 0xBB, 0] && t.i == 0x402) = true
    ∧ ticks (otherQuirks [(0, 0xAA), (1, 0xBB)] 0x400) 0xF155
      (fun t => t.readBytes 0x400 3 == [0xAA, 0xBB, 0] && t.i == 0x400) = true
    ∧ ticks (atI [(0, 0xAA), (0xF, 0xBB)] 0xFF0) 0xFF55
      (fun t => t.readByte 0xFF0 == 0xAA && t.readByte 0xFFF == 0xBB && t.i == 0x1000
        && t.tickResult == .ok) = true := by decide +kernel

/-- 2.6 #16 and #17, and a store into the font (45_index_memory.md R144). -/
theorem test_storeRegs_faults :
    ticksTo (atI [(0, 0xAA)] 0xFF1) 0xFF55 ⟨true, 3, 0x200, 0xFF55, 0xFF1⟩ = true
    ∧ ticksTo (atI [(0, 0xAA)] 0x1000) 0xF055 ⟨true, 3, 0x200, 0xF055, 0x1000⟩ = true
    ∧ ticksTo (atI [(0, 0xAA)] 0x04F) 0xF155 ⟨true, 6, 0x200, 0xF155, 0x050⟩ = true := by decide +kernel

/-- 2.6 #18 and #19. -/
theorem test_loadRegs :
    ticks (atI [] 0x050) 0xF465
      (fun t => t.getRegs 6 == [0xF0, 0x90, 0x90, 0x90, 0xF0, 0] && t.i == 0x055) = true
    ∧ ticks (otherQuirks [] 0x050) 0xF265
      (fun t => t.getRegs 4 == [0xF0, 0x90, 0x90, 0] && t.i == 0x050) = true := by decide +kernel

/-- 2.6 #20. -/
theorem test_loadRegs_overflow :
    ticksTo (atI [(0, 7)] 0xFF1) 0xFF65 ⟨true, 3, 0x200, 0xFF65, 0xFF1⟩ = true := by decide +kernel

/-- 2.7: the diagnostic carries the word and its address, and only `pc` moves. -/
theorem test_unknown_and_sys :
    [0x0000, 0x00E1, 0x0123, 0x5121, 0x812F, 0xE19F, 0xF10B].all (fun w =>
      ticks (fresh [(3, 7)]) w fun t =>
        agree t { (fresh [(3, 7)]).withFetchWord 16 w with
          pc := 0x202, tickResult := .okDiag (BitVec.ofNat 16 w) 0x200 }) = true := by decide +kernel

/-! ### Faults and events -/

/-- 2.1 #8 and #14, second Tick: the fetch fault. -/
theorem test_fetch_out_of_range :
    (step { State.reset with pc := 0x100 } matches .next ⟨_, _, 0x100, _, _, _, _, _, _, _,
      ⟨true, 4, 0x100, 0, 0x100⟩, _, .fault 4, _, _, _, _⟩) = true
    ∧ (step { State.reset with pc := 0x10FE } matches .next ⟨_, _, 0x10FE, _, _, _, _, _, _, _,
      ⟨true, 4, 0x10FE, 0, 0x10FE⟩, _, .fault 4, _, _, _, _⟩) = true := by decide +kernel

/-- The model's one stop: an odd `pc` in range (20_memory.md R50, log entry 6). -/
theorem test_misaligned_fetch_stops :
    (step { State.reset with pc := 0x201 } matches .fault (.misalignedFetch 0x201)) = true := by decide +kernel

/-- The state after a list of events, from a state, none of which may stop the machine. -/
def happen (s : State) : List Event → Option State
  | [] => some s
  | e :: es =>
    match step { s with pending := [e] } with
    | .next t => happen t es
    | _ => none

/-- Vector 2.8: fault, halt, host events, and the way out. -/
theorem test_fault_sequence :
    (happen State.reset [.reset, .load [0x00, 0xEE], .tick, .tick, .keySet 5 true,
        .load [0x60, 0x01], .tick]).any (fun t : State =>
      t.fault == ⟨true, 2, 0x200, 0x00EE, 0⟩ && t.pc == 0x200 && t.keypad[5] && t.getV 0 == 0
        && t.readBytes 0x200 2 == [0x60, 0x01] && t.tickResult == .fault 2 && t.loadResult == .ok)
      = true
    ∧ (happen { State.reset with fault := ⟨true, 2, 0x200, 0x00EE, 0⟩ }
        [.keySet 5 true, .reset, .load [0x60, 0x01], .tick]).any (fun t : State =>
      agree t { State.reset.writeBytes 0x200 [0x60, 0x01] with
        v := (fresh [(0, 1)]).v, pc := 0x202, tickResult := .ok, loadResult := .ok }) = true := by decide +kernel

/-- Scenarios S1 to S4 (1.2). -/
theorem test_scenarios :
    (happen State.reset [.load [0x60, 0x05], .tick]).any (fun t : State => t.getV 0 == 5 && t.pc == 0x202)
      = true
    ∧ (happen State.reset [.load [0xA2, 0x0A], .tick]).any (fun t : State => t.i == 0x20A) = true
    ∧ (happen State.reset [.load [0x22, 0x04, 0, 0, 0, 0xEE], .tick, .tick]).any
      (fun t : State => t.pc == 0x202 && t.sp == 0) = true
    ∧ (happen State.reset [.load [0x60, 3, 0xF0, 0x18], .tick, .tick, .timer60, .timer60]).any (fun t : State => t.st == 1 && t.dt == 0 && t.soundOn) = true := by decide +kernel

/-- 2.5 #7 and #8. -/
theorem test_timer60 :
    (happen { State.reset with dt := 1, st := 0 } [.timer60]).any (fun t : State => t.dt == 0 && t.st == 0)
      = true
    ∧ (happen { State.reset with dt := 0, st := 255 } [.timer60]).any (fun t : State => t.dt == 0 && t.st == 254) = true := by decide +kernel

/-- 60_exceptions.md R187. -/
theorem test_redrawAck :
    (happen { State.reset with redraw := true } [.redrawAck]).any (fun t : State => t == State.reset) = true := by decide +kernel

/-- Program F (self-modifying code): the fetch sees the stored bytes (20_memory.md R54). -/
theorem test_store_then_fetch :
    (happen { fresh [(0, 0x12), (1, 0x08)] with i := 0x202 } [.load [0xF1, 0x55], .tick, .tick]).any (fun t : State => t.pc == 0x208 && t.tickResult == .ok) = true := by decide +kernel

/-! ### Witnesses: encoding and registers -/

theorem witness_EncodedInstructionDecodesBack :
    (Instr.drw 0xF 0xF 0xF).wellFormed = true ∧ (Instr.sys 0x0EF).wellFormed = true
    ∧ (Instr.loadRegs 0xF).wellFormed = true := by decide

theorem witness_DecodedWordIsTheEncoding :
    decodeWord 0x0FFF = .instr (.sys 0xFFF) ∧ decodeWord 0xFF65 = .instr (.loadRegs 0xF) := by decide

theorem witness_AddRegistersSetsCarryLast : (0xE : Nibble) ≠ 0xF ∧ (0 : Nibble) ≠ 0xF := by decide
theorem witness_SubtractionsSetNotBorrowLast : (0xE : Nibble) ≠ 0xF ∧ (0 : Nibble) ≠ 0xF := by decide
theorem witness_ShiftRightMovesBitZeroToVF : (0xE : Nibble) ≠ 0xF ∧ (0 : Nibble) ≠ 0xF := by decide
theorem witness_ShiftLeftMovesBitSevenToVF : (0xE : Nibble) ≠ 0xF ∧ (0 : Nibble) ≠ 0xF := by decide

theorem witness_KeySkipsTestLowNibbleKey :
    (3 : Fin 16).val = ((keysHeld [(0, 0x13)]).getV 0).toNat % 16
    ∧ (15 : Fin 16).val = ((fresh [(0, 0xFF)]).getV 0).toNat % 16
    ∧ (0 : Fin 16).val = ((fresh [(0, 0x10)]).getV 0).toNat % 16 := by decide +kernel

/-! ### Witnesses: transfers -/

/-- The three clauses: depth 1, depth 16, depth 0. -/
theorem witness_ReturnPopsOrUnderflows :
    ({ State.reset with sp := 1 } : State).sp.val = (0 : Fin 16).val + 1
    ∧ full.sp.val = (15 : Fin 16).val + 1 ∧ State.reset.sp.val = 0 := by decide +kernel

theorem witness_JumpGoesToEvenTarget :
    (0xFFE : Addr12).toNat % 2 = 0 ∧ (0 : Addr12).toNat % 2 = 0
    ∧ (0xFFF : Addr12).toNat % 2 = 1 ∧ (1 : Addr12).toNat % 2 = 1 := by decide

/-- Depths 0 and 15 with an even target, an odd target, and depth 16 with an even one. -/
theorem witness_CallPushesReturnAddress :
    ((0xFFE : Addr12).toNat % 2 = 0 ∧ State.reset.sp.val = (0 : Fin 16).val)
    ∧ (({ State.reset with sp := 15 } : State).sp.val = (15 : Fin 16).val)
    ∧ (0xFFF : Addr12).toNat % 2 = 1
    ∧ ((0x200 : Addr12).toNat % 2 = 0 ∧ full.sp.val = 16) := by decide +kernel

/-- `fresh` in a machine with `JUMP_OFFSET_VX`. -/
def offsetVx (vs : List (Nibble × Byte)) : State :=
  { fresh vs with cfg := { defaultConfig with jumpOffsetVx := true } }

/-- Both settings of the parameter, each with an even and an odd sum. -/
theorem witness_OffsetJumpAddsRegister :
    ((0 : Nibble).toNat = (if (fresh [(0, 0xFF)]).cfg.jumpOffsetVx then (0xFFF : Addr12).toNat / 256 else 0)
      ∧ ((0xFFF : Addr12).toNat + ((fresh [(0, 0xFF)]).getV 0).toNat) % 2 = 0
      ∧ ((0xFFE : Addr12).toNat + ((fresh [(0, 0xFF)]).getV 0).toNat) % 2 = 1)
    ∧ ((0xF : Nibble).toNat = (if (offsetVx [(0xF, 1)]).cfg.jumpOffsetVx then (0xFFF : Addr12).toNat / 256 else 0)
      ∧ ((0xFFF : Addr12).toNat + ((offsetVx [(0xF, 1)]).getV 0xF).toNat) % 2 = 0
      ∧ ((0xFFE : Addr12).toNat + ((offsetVx [(0xF, 1)]).getV 0xF).toNat) % 2 = 1) := by
  decide +kernel

theorem witness_CallThenReturnComesBack :
    (0xFFE : Addr12).toNat % 2 = 0 ∧ ({ State.reset with sp := 15 } : State).sp.val < 16 := by decide

/-! ### Witnesses: answers -/

/-- The answer is a next state that passes the check. -/
def passes (a : Answer) (check : State → Bool) : Bool :=
  match a with
  | .next t => check t
  | _ => false

theorem exists_next {a : Answer} {check : State → Bool} (h : passes a check = true) :
    ∃ t, a = .next t ∧ check t = true := by
  cases a with
  | next t => exact ⟨t, rfl, h⟩
  | fault f => cases h
  | refused r => cases h

/-! ### Witnesses: display, keys and memory -/

/-- No rows at any `I`, a sprite that ends at 0xFFF, and one that passes it; in both modes. -/
theorem witness_DrawInvertsCoveredPixels :
    ((0 : Nibble) = 0)
    ∧ ((atI [] 0xFF1).i.toNat + (0xF : Nibble).toNat ≤ 0x1000)
    ∧ ((0xF : Nibble) ≠ 0 ∧ 0x1000 < (atI [] 0xFF2).i.toNat + (0xF : Nibble).toNat)
    ∧ (sprite 0xC0 63 31 true Framebuffer.blank).i.toNat + (1 : Nibble).toNat ≤ 0x1000 := by
  decide +kernel

/-- A covered and an uncovered pixel, in clip and in wrap mode. -/
theorem witness_SpriteCovers :
    SpriteCovers (sprite 0xC0 63 31 false Framebuffer.blank) 63 31 1 63 31
    ∧ SpriteCovers (sprite 0xC0 63 31 true Framebuffer.blank) 63 31 1 0 31
    ∧ ¬ SpriteCovers (sprite 0xC0 63 31 false Framebuffer.blank) 63 31 1 0 31 := by
  refine ⟨⟨0, 0, by decide, by decide, by decide +kernel, by decide⟩,
    ⟨0, 1, by decide, by decide, by decide +kernel, by decide⟩, ?_⟩
  rintro ⟨row, col, -, -, -, h⟩
  have h : 0 = 63 + col ∧ 31 = 31 + row := h
  omega

/-- On a display with a pixel on, and on a clear one: a set pixel inside the grid, and none. -/
theorem witness_DrawingTwiceRestoresDisplay :
    (let s := sprite 0xFF 60 31 false (oneOn 60 31)
     ((1 : Nibble) = 0 ∨ s.i.toNat + (1 : Nibble).toNat ≤ 0x1000)
     ∧ ∃ t, exec (.drw 0 1 1) s = .next t ∧ t.getV 0 = s.getV 0 ∧ t.getV 1 = s.getV 1
       ∧ ∃ u, exec (.drw 0 1 1) t = .next u)
    ∧ (∀ px py : Nat, px < 64 → py < 32 →
        pixel (sprite 0xFF 63 31 false Framebuffer.blank).fb px py = false)
    ∧ SpriteCovers (sprite 0xFF 63 31 false Framebuffer.blank) 63 31 1 63 31
    ∧ ¬ ∃ px py : Nat, px < 64 ∧ py < 32
        ∧ SpriteCovers (sprite 0xFF 64 31 false Framebuffer.blank) 64 31 1 px py := by
  refine ⟨⟨by decide +kernel, _, rfl, by decide +kernel, by decide +kernel, ?_⟩,
    fun px py hx hy => ?_, ⟨0, 0, by decide, by decide, by decide +kernel, by decide⟩, ?_⟩
  · exact (exists_next (check := fun _ => true) (by decide +kernel)).imp fun _ h => h.1
  · simp [sprite, pixel, Framebuffer.blank]
  · rintro ⟨px, py, hx, -, row, col, -, -, -, h⟩
    have h : px = 64 + col ∧ py = 31 + row := h
    omega

/-- No key, and the lowest key 3, 0 and 15. -/
theorem witness_WaitForKeyTakesLowestKey :
    (∀ k : Fin 16, State.reset.keypad[k] = false)
    ∧ ((keysHeld []).keypad[(3 : Fin 16)] = true
      ∧ ∀ j : Fin 16, j < 3 → (keysHeld []).keypad[j] = false)
    ∧ ((Vector.replicate 16 true)[(0 : Fin 16)] = true)
    ∧ ((State.reset.keypad.set 15 true)[(15 : Fin 16)] = true
      ∧ ∀ j : Fin 16, j < 15 → (State.reset.keypad.set 15 true)[j] = false) := by decide +kernel

/-- Overflow by one byte; the font's first and last byte met; the last byte of memory read; a write
that ends just below the font, and one that starts just above it. -/
theorem witness_RangeCheckNamesTheFault :
    (1 ≤ 16 ∧ 16 ≤ 16 ∧ 0xFFF < (atI [] 0xFF1).i.toNat + 16 - 1)
    ∧ ((atI [] 0x04F).i.toNat + 2 - 1 ≤ 0xFFF ∧ (atI [] 0x04F).i.toNat ≤ 0x09F
      ∧ 0x050 ≤ (atI [] 0x04F).i.toNat + 2 - 1)
    ∧ ((atI [] 0x09F).i.toNat ≤ 0x09F ∧ 0x050 ≤ (atI [] 0x09F).i.toNat + 1 - 1)
    ∧ ((atI [] 0xFFF).i.toNat + 1 - 1 ≤ 0xFFF)
    ∧ ((atI [] 0x04E).i.toNat + 2 - 1 < 0x050) ∧ 0x09F < (atI [] 0x0A0).i.toNat := by decide +kernel

/-- The three clauses, each at the edges of its range. -/
theorem witness_BcdStoresThreeDigits :
    (atI [] 0xFFD).MemWf
    ∧ ((atI [] 0xFFD).i.toNat + 2 ≤ 0xFFF ∧ 0x09F < (atI [] 0xFFD).i.toNat)
    ∧ (0x09F < (atI [] 0x0A0).i.toNat) ∧ ((atI [] 0x04D).i.toNat + 2 < 0x050)
    ∧ (0xFFF < (atI [] 0xFFE).i.toNat + 2)
    ∧ ((atI [] 0x04E).i.toNat ≤ 0x09F ∧ 0x050 ≤ (atI [] 0x04E).i.toNat + 2)
    ∧ ((atI [] 0x09F).i.toNat ≤ 0x09F ∧ 0x050 ≤ (atI [] 0x09F).i.toNat + 2) := by decide +kernel

theorem witness_BlockStoreCopiesRegisters :
    (atI [] 0xFF0).MemWf
    ∧ ((atI [] 0xFF0).i.toNat + (0xF : Nibble).toNat ≤ 0xFFF ∧ 0x09F < (atI [] 0xFF0).i.toNat)
    ∧ ((atI [] 0x040).i.toNat + (0xF : Nibble).toNat < 0x050)
    ∧ ((0 : Nibble).toNat ≤ (0 : Nibble).toNat)
    ∧ (0xFFF < (atI [] 0xFF1).i.toNat + (0xF : Nibble).toNat)
    ∧ ((atI [] 0x041).i.toNat ≤ 0x09F ∧ 0x050 ≤ (atI [] 0x041).i.toNat + (0xF : Nibble).toNat)
    ∧ ((atI [] 0x09F).i.toNat ≤ 0x09F ∧ 0x050 ≤ (atI [] 0x09F).i.toNat + (0 : Nibble).toNat) := by
  decide +kernel

theorem witness_BlockLoadFillsRegisters :
    ((atI [] 0xFF0).i.toNat + (0xF : Nibble).toNat ≤ 0xFFF)
    ∧ ((0 : Nibble).toNat ≤ (0 : Nibble).toNat ∧ (0 : Nibble).toNat < (1 : Nibble).toNat)
    ∧ (0xFFF < (atI [] 0xFF1).i.toNat + (0xF : Nibble).toNat) := by decide +kernel

theorem witness_UnknownIsNoOpWithDiagnostic :
    (0x0ED : Addr12) ≠ 0x0E0 ∧ (0x0ED : Addr12) ≠ 0x0EE ∧ (0 : Addr12) ≠ 0x0E0
    ∧ (0 : Addr12) ≠ 0x0EE := by decide

/-! ### Witnesses: Tick and events -/

/-- At both ends of the legal `pc` range, with nothing pending and with a Tick pending before a
Timer60; the word at `pc` is an instruction, or unknown. -/
theorem witness_StepRunsTheDecodedInstruction :
    (let s := (({ State.reset with pc := 0xFFE } : State).writeByte 0xFFE 0x22).writeByte 0xFFF 0x04
     s.fault.valid = false ∧ 0x200 ≤ s.pc.toNat ∧ s.pc.toNat ≤ 0xFFE ∧ s.pc.toNat % 2 = 0
     ∧ s.pending = []
     ∧ decodeBytes (s.readByte s.pc.toNat) (s.readByte (s.pc.toNat + 1)) = .instr (.call 0x204))
    ∧ (let s := ({ State.reset with pending := [.tick, .timer60] } : State).writeByte 0x200 0x51
     s.fault.valid = false ∧ 0x200 ≤ s.pc.toNat ∧ s.pc.toNat ≤ 0xFFE ∧ s.pc.toNat % 2 = 0
     ∧ s.pending = .tick :: [.timer60]
     ∧ decodeBytes (s.readByte s.pc.toNat) (s.readByte (s.pc.toNat + 1)) = .instr (.seReg 1 0))
    ∧ (let s := (State.reset.writeByte 0x200 0x51).writeByte 0x201 0x21
     s.pending = []
     ∧ decodeBytes (s.readByte s.pc.toNat) (s.readByte (s.pc.toNat + 1)) = .unknown 0x5121) := by
  decide +kernel

/-- Each event as the oldest pending one, and none pending. -/
theorem witness_StepPerformsTheOldestEvent :
    ([.tick, .timer60, .reset, .load [0x60], .keySet 15 true, .redrawAck] : List Event).all
      (fun e => ({ State.reset with pending := [e, .timer60] } : State).pending == e :: [.timer60])
      = true
    ∧ State.reset.pending = [] := by decide

/-- Just below and just above the range; 0xFFF is above it; nothing pending, and a Tick before a
Timer60. -/
theorem witness_FetchOutOfRangeFaults :
    State.reset.pending = [] ∧ State.reset.fault.valid = false
    ∧ ({ State.reset with pending := [.tick, .timer60] } : State).pending = .tick :: [.timer60]
    ∧ ({ State.reset with pc := 0x1FE } : State).pc.toNat < 0x200
    ∧ 0xFFE < ({ State.reset with pc := 0x1000 } : State).pc.toNat
    ∧ 0xFFE < ({ State.reset with pc := 0xFFF } : State).pc.toNat := by decide +kernel

/-- A FAULTED core. -/
def faulted : State := { State.reset with fault := ⟨true, 2, 0x200, 0x00EE, 0⟩ }

theorem witness_FaultedCoreHaltsButEventsAct :
    faulted.fault.valid = true ∧ faulted.MemWf ∧ [(0x60 : Byte)].length ≤ 3584 := by decide +kernel

theorem witness_OnlyResetLeavesFaulted :
    faulted.fault.valid = true
    ∧ (Event.load [] ≠ .reset ∧ ∃ t, applyEvent (.load []) faulted = .next t)
    ∧ (Event.tick ≠ .reset ∧ ∃ t, applyEvent .tick faulted = .next t)
    ∧ ∃ t, applyEvent .reset faulted = .next t :=
  ⟨rfl, ⟨by decide, _, rfl⟩, ⟨by decide, _, rfl⟩, _, rfl⟩

/-- A Tick that faults in the instruction, and one that faults in the fetch. -/
theorem witness_FaultingTickCommitsNothing :
    (∃ t, tick (State.reset.writeBytes 0x200 [0x00, 0xEE]) = .next t ∧ t.fault.valid = true)
    ∧ (∃ t, tick { State.reset with pc := 0x1000 } = .next t ∧ t.fault.valid = true)
    ∧ State.reset.fault.valid = false :=
  ⟨exists_next (check := fun t => t.fault.valid) (by decide +kernel),
    exists_next (check := fun t => t.fault.valid) (by decide +kernel), rfl⟩

theorem witness_OnlyTheSixConditionsFault :
    (∃ t, tick (State.reset.writeBytes 0x200 [0x00, 0xEE]) = .next t ∧ t.fault.valid = true)
    ∧ (∃ t, tick { State.reset with pc := 0x1000 } = .next t ∧ t.fault.valid = true)
    ∧ (∃ t, tick ((atI [] 0xFFF).writeBytes 0x200 [0xD0, 0x02]) = .next t ∧ t.fault.valid = true)
    ∧ (∃ t, tick ((atI [] 0x09F).writeBytes 0x200 [0xF0, 0x33]) = .next t ∧ t.fault.valid = true)
    ∧ State.reset.fault.valid = false :=
  ⟨exists_next (check := fun t => t.fault.valid) (by decide +kernel),
    exists_next (check := fun t => t.fault.valid) (by decide +kernel),
    exists_next (check := fun t => t.fault.valid) (by decide +kernel),
    exists_next (check := fun t => t.fault.valid) (by decide +kernel), rfl⟩

theorem witness_PlacedWordRunsNext : (State.reset.writeByte 0x200 1).MemWf := by decide +kernel

theorem witness_LoadCopiesRomOrRejects :
    State.reset.MemWf ∧ (List.replicate 3584 (0xAA : Byte)).length ≤ 3584
    ∧ 0 < (List.replicate 3584 (0xAA : Byte)).length
    ∧ 3584 < (List.replicate 3585 (0xAA : Byte)).length :=
  ⟨by decide +kernel, List.length_replicate.le, List.length_replicate.symm ▸ (by decide),
    List.length_replicate.symm ▸ (by decide)⟩

theorem witness_HostEventsWriteTheirOneField : (0 : Fin 16) ≠ 15 := by decide

theorem witness_ResetRestoresEverything :
    0x04F < 0x050 ∧ 0x09F < 0x0A0 ∧ Part.config ∉ [Part.regs, .memory] := by decide

theorem witness_OutputsShowDisplayAndSound :
    (2047 : Fin 2048).val = 64 * (31 : Fin 32).val + (63 : Fin 64).val
    ∧ (64 : Fin 2048).val = 64 * (1 : Fin 32).val + (0 : Fin 64).val := by decide

/-! ### Witnesses: the whole machine -/

/-- A state with a live stack entry and a listed byte of memory. -/
def busy : State :=
  { State.reset with sp := 1, stack := State.reset.stack.set 0 0x1000, mem := [(0x200, 0x12)] }

theorem busy_inv : busy.Inv := by
  refine ⟨by decide +kernel, by decide +kernel, ?_, by decide +kernel, by decide +kernel,
    by decide +kernel, fun _ => rfl, fun h => Bool.noConfusion h⟩
  have : ∀ k : Fin 16, k.val < busy.sp.val →
      misaligned busy.stack[k] = false ∧ 0x202 ≤ busy.stack[k].toNat
        ∧ busy.stack[k].toNat ≤ 0x1000 := by decide +kernel
  exact this

theorem witness_EveryStepKeepsInvariant : busy.Inv ∧ ∃ t, step busy = .next t :=
  ⟨busy_inv, (exists_next (check := fun _ => true) (by decide +kernel)).imp fun _ h => h.1⟩

theorem witness_InvariantStatesAlwaysStep : busy.Inv := busy_inv

theorem witness_EveryStepKeepsMemoryCanonical : busy.MemWf ∧ ∃ t, step busy = .next t :=
  ⟨by decide +kernel, (exists_next (check := fun _ => true) (by decide +kernel)).imp fun _ h => h.1⟩

theorem witness_FontAndConfigAreImmutable :
    busy.MemWf ∧ Event.tick ≠ .reset ∧ (∃ t, applyEvent .tick busy = .next t)
    ∧ (∃ t, applyEvent .reset busy = .next t) ∧ 0x050 ≤ 0x09F :=
  ⟨by decide +kernel, by decide,
    (exists_next (check := fun _ => true) (by decide +kernel)).imp fun _ h => h.1, ⟨_, rfl⟩, by decide⟩

/-- For each part the statement speaks of, an instruction that changes it. -/
theorem witness_InstructionsWriteOnlyTheirState :
    (∃ t, exec (.ldI 1) State.reset = .next t ∧ t.i ≠ State.reset.i)
    ∧ (∃ t, exec (.call 0) State.reset = .next t ∧ t.sp ≠ State.reset.sp)
    ∧ (∃ t, exec .cls State.reset = .next t ∧ t.redraw ≠ State.reset.redraw)
    ∧ (∃ t, exec (.ldDtVx 0) (fresh [(0, 1)]) = .next t ∧ t.dt ≠ (fresh [(0, 1)]).dt)
    ∧ (∃ t, exec (.ldStVx 0) (fresh [(0, 1)]) = .next t ∧ t.st ≠ (fresh [(0, 1)]).st)
    ∧ (∃ t, exec (.ldB 0) (atI [(0, 1)] 0x300) = .next t
      ∧ t.readByte 0x302 ≠ (atI [(0, 1)] 0x300).readByte 0x302) :=
  ⟨⟨_, rfl, by decide +kernel⟩, ⟨_, rfl, by decide +kernel⟩, ⟨_, rfl, by decide +kernel⟩,
    ⟨_, rfl, by decide +kernel⟩, ⟨_, rfl, by decide +kernel⟩, ⟨_, rfl, by decide +kernel⟩⟩

theorem witness_FlagRegisterIsWrittenOnlyByItsWriters :
    (∃ t, exec (.ldImm 0xF 1) State.reset = .next t ∧ t.getV 0xF ≠ State.reset.getV 0xF)
    ∧ (∃ t, exec (.sub 0 1) State.reset = .next t ∧ t.getV 0xF ≠ State.reset.getV 0xF) :=
  ⟨⟨_, rfl, by decide +kernel⟩, ⟨_, rfl, by decide +kernel⟩⟩

theorem witness_StraightLineInstructionsKeepPc :
    ∃ t, exec (.jp 0x300) State.reset = .next t ∧ State.reset.fault.valid = false
      ∧ t.fault.valid = false ∧ t.pc ≠ State.reset.pc :=
  ⟨_, rfl, by decide +kernel, by decide +kernel, by decide +kernel⟩

/-- A dead slot differs: at depth 0, and above a live entry. -/
theorem witness_DeadStackSlotsAreUnobservable :
    SameButDeadSlots State.reset { State.reset with stack := State.reset.stack.set 0 1 }
    ∧ SameButDeadSlots busy { busy with stack := busy.stack.set 1 1 } := by
  refine ⟨⟨rfl, by decide +kernel⟩, ⟨rfl, by decide +kernel⟩⟩

/-- One instruction that writes none of the four, and three that write the sound timer, the redraw
flag and the latch. -/
theorem witness_OutputsAreInvisibleToInstructions :
    (∃ t, exec (.ldDtVx 0) (fresh [(0, 1)]) = .next t)
    ∧ (∃ t, exec (.ldStVx 0) (fresh [(0, 1)]) = .next t) ∧ (∃ t, exec .cls State.reset = .next t)
    ∧ ∃ t, exec .ret State.reset = .next t := ⟨⟨_, rfl⟩, ⟨_, rfl⟩, ⟨_, rfl⟩, _, rfl⟩

end Sys2Proof.Tests
end

section
/-!
The control, jump and call instructions (40_control_jump_call.md R80 to R85): the even and the odd
transfer target, the return stack, and the statements of the family.
-/

namespace Sys2Proof

/-! ### Decoding of the three transfers of format `NNN` (30_encoding.md R65) -/

theorem decodeWord_encNNN_jp (nnn : Addr12) : decodeWord (encNNN 0x1 nnn) = .instr (.jp nnn) := by
  simp [decodeWord, fieldClass_encNNN, fieldNNN_encNNN]

theorem decodeWord_encNNN_call (nnn : Addr12) :
    decodeWord (encNNN 0x2 nnn) = .instr (.call nnn) := by
  simp [decodeWord, fieldClass_encNNN, fieldNNN_encNNN]

theorem decodeWord_encNNN_jpV0 (nnn : Addr12) :
    decodeWord (encNNN 0xB nnn) = .instr (.jpV0 nnn) := by
  simp [decodeWord, fieldClass_encNNN, fieldNNN_encNNN]

end Sys2Proof

namespace Sys2Proof.Machine

/-! ### Transfer targets (R85) -/

theorem misaligned_eq_decide (t : Word) : misaligned t = decide (t.toNat % 2 = 1) := by
  simp [misaligned, BitVec.getLsbD, Nat.testBit_zero]

theorem misaligned_of_even {t : Word} (h : t.toNat % 2 = 0) : misaligned t = false := by
  simp [misaligned_eq_decide, h]

theorem misaligned_of_odd {t : Word} (h : t.toNat % 2 = 1) : misaligned t = true := by
  simp [misaligned_eq_decide, h]

@[simp] theorem toNat_zextAddr (nnn : Addr12) : (zextAddr nnn).toNat = nnn.toNat :=
  BitVec.toNat_setWidth_of_le (by decide)

/-- A jump to an even target writes `pc` and nothing else. -/
theorem jumpTo_of_even (op : Word) {t : Word} (s : State) (h : t.toNat % 2 = 0) :
    ∃ u, jumpTo op t s = .next u ∧ u.pc = t ∧ SameBut [.pc] s u := by
  rcases jumpTo_cases op t s with ⟨-, hj⟩ | ⟨hm, -⟩
  · exact ⟨_, hj, rfl, SameBut.setPc s t⟩
  · simp [misaligned_of_even h] at hm

/-- A jump to an odd target takes `PcMisaligned`, with the target as info. -/
theorem jumpTo_of_odd (op : Word) {t : Word} (s : State) (h : t.toNat % 2 = 1) :
    ∃ u, jumpTo op t s = .next u ∧ FaultTaken 5 op t s u := by
  rcases jumpTo_cases op t s with ⟨hm, -⟩ | ⟨-, hj⟩
  · simp [misaligned_of_odd h] at hm
  · exact ⟨_, hj, FaultTaken.takeFault s .pcMisaligned op t⟩

/-- The offset jump's register: 0, or `X = NNN[11:8]` by the parameter (R84, D19). -/
theorem toNat_extract_highNibble (nnn : Addr12) :
    (nnn.extractLsb' 8 4).toNat = nnn.toNat / 256 := by
  rw [BitVec.extractLsb'_toNat, Nat.shiftRight_eq_div_pow]
  have := nnn.isLt
  omega

/-- The offset jump's sum fits 16 bits, so it is the sum of the two numbers (R84). -/
theorem State.toNat_jumpOffsetTarget (s : State) (nnn : Addr12) {r : Nibble}
    (hr : r.toNat = if s.cfg.jumpOffsetVx then nnn.toNat / 256 else 0) :
    (s.jumpOffsetTarget nnn).toNat = nnn.toNat + (s.getV r).toNat := by
  have hreg : (if s.cfg.jumpOffsetVx then nnn.extractLsb' 8 4 else 0) = r := by
    apply BitVec.eq_of_toNat_eq
    rw [hr, apply_ite BitVec.toNat, toNat_extract_highNibble]
    rfl
  have hnnn := nnn.isLt
  have hv := (s.getV r).isLt
  simp only [State.jumpOffsetTarget, hreg, BitVec.toNat_add, toNat_zextAddr, BitVec.toNat_setWidth]
  omega

/-! ### The return stack (10_state.md R14) -/

/-- A write of the return stack and its depth keeps every other part. -/
theorem SameBut.setStack (s : State) (n : Fin 17) (st : Vector Word 16) :
    SameBut [.stack] s { s with sp := n, stack := st } := by
  intro p hp
  cases p
  case stack => simp at hp
  case regs => exact fun _ => rfl
  case memory => exact fun _ => rfl
  all_goals rfl

/-- A push with room writes the slot at the depth, keeps every other slot, and touches nothing but
the stack. -/
theorem State.push_of_room {s : State} {k : Fin 16} (hk : s.sp.val = k.val) :
    ∃ t, s.push = some t ∧ t.sp.val = k.val + 1 ∧ t.stack[k] = s.pc
      ∧ (∀ j : Fin 16, j ≠ k → t.stack[j] = s.stack[j]) ∧ SameBut [.stack] s t := by
  rcases s.push_cases with ⟨hlt, t, ht, hsp, he⟩ | ⟨hfull, -⟩
  · have hstack : t.stack = s.stack.set s.sp.val s.pc hlt := by rw [he]
    refine ⟨t, ht, by omega, by simp [hstack, hk], fun j hj => ?_, he ▸ SameBut.setStack s _ _⟩
    have : s.sp.val ≠ j.val := fun e => hj (Fin.ext (by omega))
    simp [hstack, this]
  · omega

/-- A pop of a filled stack takes the topmost slot to `pc`, counts the depth down, and keeps the
slots. -/
theorem State.pop_of_entry {s : State} {k : Fin 16} (hk : s.sp.val = k.val + 1) :
    ∃ t, s.pop = some t ∧ t.sp.val = k.val ∧ t.pc = s.stack[k] ∧ t.stack = s.stack
      ∧ SameBut [.pc, .stack] s t := by
  rcases s.pop_cases with ⟨hpos, t, ht, hsp, he⟩ | ⟨hempty, -⟩
  · have hpc : t.pc = s.stack[s.sp.val - 1] := congrArg State.pc he
    have hframe : SameBut [.stack, .pc] s t :=
      he ▸ (SameBut.setStack s t.sp s.stack).trans (SameBut.setPc _ _)
    exact ⟨t, ht, by omega, by simp [hpc, hk], by rw [he], hframe.mono (by simp)⟩
  · omega

theorem State.push_of_full {s : State} (h : s.sp.val = 16) : s.push = none := by
  simp [State.push, h]

theorem State.pop_of_empty {s : State} (h : s.sp.val = 0) : s.pop = none := by
  simp [State.pop, h]

/-! ### The display -/

@[simp] theorem pixel_blank (x y : Nat) : pixel Framebuffer.blank x y = false := by
  unfold pixel Framebuffer.blank
  split <;> simp

/-! ### The three outcomes of CALL, the target tested before the stack (R83, R166) -/

theorem execCall_of_odd {nnn : Addr12} (s : State) (h : nnn.toNat % 2 = 1) :
    execCall nnn s
      = .next (s.takeFault .pcMisaligned (s.pc - 2) (encode (.call nnn)) (zextAddr nnn)) := by
  simp [execCall, misaligned_of_odd, h, raise]

theorem execCall_of_full {nnn : Addr12} {s : State} (h : nnn.toNat % 2 = 0) (hsp : s.sp.val = 16) :
    execCall nnn s
      = .next (s.takeFault .stackOverflow (s.pc - 2) (encode (.call nnn)) (zextAddr nnn)) := by
  simp [execCall, misaligned_of_even, h, State.push_of_full hsp, raise]

theorem execCall_of_room {nnn : Addr12} {s t : State} (h : nnn.toNat % 2 = 0)
    (ht : s.push = some t) : execCall nnn s = .next (t.setPc (zextAddr nnn)) := by
  simp [execCall, misaligned_of_even, h, ht]

/-! ### The two outcomes of RET (R81) -/

theorem execRet_of_entry {s t : State} (ht : s.pop = some t) : execRet s = .next t := by
  simp [execRet, ht]

theorem execRet_of_empty {s : State} (h : s.sp.val = 0) :
    execRet s = .next (s.takeFault .stackUnderflow (s.pc - 2) (encode .ret) 0) := by
  simp [execRet, State.pop_of_empty h, raise]

/-! ### The statements -/

/-- Settles O18, by the three outcomes of CALL: an odd target, an even one at depth 16, and an even
one with room on the stack. -/
theorem callPushesReturnAddress : Obligations.CallPushesReturnAddress := by
  intro nnn s
  refine ⟨decodeWord_encNNN_call nnn, fun k heven hk => ?room, fun hodd => ?odd,
    fun heven hfull => ?full⟩
  case room =>
    obtain ⟨t, ht, hsp, htop, hrest, hframe⟩ := State.push_of_room hk
    refine ⟨t.setPc (zextAddr nnn), execCall_of_room heven ht, toNat_zextAddr nnn, hsp, htop, hrest,
      (hframe.trans (SameBut.setPc t _)).mono (by simp)⟩
  case odd => exact ⟨_, execCall_of_odd s hodd, FaultTaken.takeFault s .pcMisaligned _ _⟩
  case full => exact ⟨_, execCall_of_full heven hfull, FaultTaken.takeFault s .stackOverflow _ _⟩

/-- Settles O15: the display CLS writes has every pixel off. -/
theorem clearScreenBlanksAndRaisesRedraw : Obligations.ClearScreenBlanksAndRaisesRedraw :=
  ⟨by decide, fun s => ⟨s.display Framebuffer.blank, rfl, fun x y _ _ => pixel_blank x y, rfl,
    SameBut.display s _⟩⟩

/-- Settles O16, by the two outcomes of a pop. -/
theorem returnPopsOrUnderflows : Obligations.ReturnPopsOrUnderflows := by
  refine ⟨by decide, fun s => ⟨fun k hk => ?entry, fun hempty => ?empty⟩⟩
  case entry =>
    obtain ⟨t, ht, hrest⟩ := State.pop_of_entry hk
    exact ⟨t, execRet_of_entry ht, hrest⟩
  case empty => exact ⟨_, execRet_of_empty hempty, FaultTaken.takeFault s .stackUnderflow _ _⟩

/-- Settles O17: JP is the transfer to its zero-extended immediate. -/
theorem jumpGoesToEvenTarget : Obligations.JumpGoesToEvenTarget := by
  intro nnn s
  refine ⟨decodeWord_encNNN_jp nnn, fun heven => ?even, fun hodd => ?odd⟩
  case even =>
    obtain ⟨t, ht, hpc, hframe⟩ := jumpTo_of_even (encode (.jp nnn)) (t := zextAddr nnn) s (by simpa)
    exact ⟨t, ht, by simp [hpc], hframe⟩
  case odd => exact jumpTo_of_odd (encode (.jp nnn)) (t := zextAddr nnn) s (by simpa)

/-- Settles O19: JP V0 is the transfer to the unreduced sum, in both settings of the parameter. -/
theorem offsetJumpAddsRegister : Obligations.OffsetJumpAddsRegister := by
  intro nnn s r hr
  have hsum := s.toNat_jumpOffsetTarget nnn hr
  rw [← hsum]
  refine ⟨decodeWord_encNNN_jpV0 nnn, fun heven => ?even, fun hodd => ?odd⟩
  case even =>
    obtain ⟨t, ht, hpc, hframe⟩ := jumpTo_of_even (encode (.jpV0 nnn)) s heven
    exact ⟨t, ht, by rw [hpc], hframe⟩
  case odd =>
    rw [BitVec.ofNat_toNat, BitVec.setWidth_eq]
    exact jumpTo_of_odd (encode (.jpV0 nnn)) s hodd

end Sys2Proof.Machine
end

section
/-!
The conditional skips (41_skip.md R90 to R96): the condition each of them tests, and the statements
of the family.
-/

namespace Sys2Proof

/-! ### Decoding of the six skips (30_encoding.md R65) -/

theorem decodeWord_encXNN_seImm (x : Nibble) (nn : Byte) :
    decodeWord (encXNN 0x3 x nn) = .instr (.seImm x nn) := by
  simp [decodeWord, fieldClass_encXNN, fieldX_encXNN, fieldNN_encXNN]

theorem decodeWord_encXNN_sneImm (x : Nibble) (nn : Byte) :
    decodeWord (encXNN 0x4 x nn) = .instr (.sneImm x nn) := by
  simp [decodeWord, fieldClass_encXNN, fieldX_encXNN, fieldNN_encXNN]

theorem decodeWord_encXYN_seReg (x y : Nibble) :
    decodeWord (encXYN 0x5 x y 0x0) = .instr (.seReg x y) := by
  simp [decodeWord, fieldClass_encXYN, fieldX_encXYN, fieldY_encXYN, fieldN_encXYN]

theorem decodeWord_encXYN_sneReg (x y : Nibble) :
    decodeWord (encXYN 0x9 x y 0x0) = .instr (.sneReg x y) := by
  simp [decodeWord, fieldClass_encXYN, fieldX_encXYN, fieldY_encXYN, fieldN_encXYN]

theorem decodeWord_encXNN_skp (x : Nibble) :
    decodeWord (encXNN 0xE x 0x9E) = .instr (.skp x) := by
  simp [decodeWord, decodeClassE, fieldClass_encXNN, fieldX_encXNN, fieldNN_encXNN]

theorem decodeWord_encXNN_sknp (x : Nibble) :
    decodeWord (encXNN 0xE x 0xA1) = .instr (.sknp x) := by
  simp [decodeWord, decodeClassE, fieldClass_encXNN, fieldX_encXNN, fieldNN_encXNN]

end Sys2Proof

namespace Sys2Proof.Machine

/-! ### A skip on a condition, and on its negation (R90) -/

theorem skipIf_of_iff {c : Bool} {p : Prop} [Decidable p] (s : State) (h : c = true ↔ p) :
    ∃ t, skipIf c s = .next t ∧ t.pc = (if p then s.pc + 2 else s.pc) ∧ SameBut [.pc] s t :=
  ⟨_, skipIf_eq c s, by simp [h], SameBut.setPc s _⟩

theorem skipIf_of_iff_not {c : Bool} {p : Prop} [Decidable p] (s : State) (h : c = true ↔ ¬ p) :
    ∃ t, skipIf c s = .next t ∧ t.pc = (if p then s.pc else s.pc + 2) ∧ SameBut [.pc] s t := by
  simpa only [ite_not] using skipIf_of_iff s h

/-! ### The key of a register (10_state.md R24) -/

theorem toNat_keyIndex (b : Byte) : (keyIndex b).toNat = b.toNat % 16 :=
  BitVec.extractLsb'_toNat ..

/-- The flag a key skip reads is the one of the key with the number of the low nibble. -/
theorem State.key_keyIndex (s : State) {b : Byte} {k : Fin 16} (hk : k.val = b.toNat % 16) :
    s.key (keyIndex b) = s.keypad[k] := by
  simp [State.key, toNat_keyIndex, hk]

/-! ### The statements -/

/-- Settles O12: both test `V[X]` against the immediate. -/
theorem immediateSkipsMovePcOnly : Obligations.ImmediateSkipsMovePcOnly := fun x nn s =>
  ⟨⟨decodeWord_encXNN_seImm x nn, skipIf_of_iff s beq_iff_eq⟩,
    ⟨decodeWord_encXNN_sneImm x nn, skipIf_of_iff_not s bne_iff_ne⟩⟩

/-- Settles O13: both test `V[X]` against `V[Y]`. -/
theorem registerSkipsMovePcOnly : Obligations.RegisterSkipsMovePcOnly := fun x y s =>
  ⟨⟨decodeWord_encXYN_seReg x y, skipIf_of_iff s beq_iff_eq⟩,
    ⟨decodeWord_encXYN_sneReg x y, skipIf_of_iff_not s bne_iff_ne⟩⟩

/-- Settles O14: both read the flag of the key numbered by the low nibble of `V[X]`. -/
theorem keySkipsTestLowNibbleKey : Obligations.KeySkipsTestLowNibbleKey := by
  intro x s k hk
  have hkey : s.key (keyIndex (s.getV x)) = s.keypad[k] := s.key_keyIndex hk
  refine ⟨⟨decodeWord_encXNN_skp x, skipIf_of_iff s ?pressed⟩,
    ⟨decodeWord_encXNN_sknp x, skipIf_of_iff_not s ?released⟩⟩
  case pressed => rw [hkey]
  case released => rw [hkey, Bool.not_eq_true', Bool.not_eq_true]

end Sys2Proof.Machine
end

section
/-!
The load, arithmetic, logic and shift instructions (42_arith_logic_shift.md R100 to R112): the ALU's
results and flags as numbers, a result with its flag written last, and the statements of the family.
-/

namespace Sys2Proof

/-! ### Decoding of the family (30_encoding.md R65) -/

theorem decodeWord_encXNN_ldImm (x : Nibble) (nn : Byte) :
    decodeWord (encXNN 0x6 x nn) = .instr (.ldImm x nn) := by
  simp [decodeWord, fieldClass_encXNN, fieldX_encXNN, fieldNN_encXNN]

theorem decodeWord_encXNN_addImm (x : Nibble) (nn : Byte) :
    decodeWord (encXNN 0x7 x nn) = .instr (.addImm x nn) := by
  simp [decodeWord, fieldClass_encXNN, fieldX_encXNN, fieldNN_encXNN]

/-- The rows of class 8 in the opcode map: the minor opcode and its instruction. -/
def class8Rows (x y : Nibble) : List (Nibble × Instr) :=
  [(0x0, .ldReg x y), (0x1, .orReg x y), (0x2, .andReg x y), (0x3, .xorReg x y),
    (0x4, .addReg x y), (0x5, .sub x y), (0x6, .shr x y), (0x7, .subn x y), (0xE, .shl x y)]

theorem decodeWord_encXYN_of_mem_class8Rows {x y n : Nibble} {i : Instr}
    (h : (n, i) ∈ class8Rows x y) : decodeWord (encXYN 0x8 x y n) = .instr i := by
  have hminor : decodeWord (encXYN 0x8 x y n) = decodeClass8 (encXYN 0x8 x y n) := by
    simp [decodeWord, fieldClass_encXYN]
  simp only [class8Rows, List.mem_cons, Prod.mk.injEq, List.not_mem_nil, or_false] at h
  rw [hminor]
  rcases h with ⟨rfl, rfl⟩ | ⟨rfl, rfl⟩ | ⟨rfl, rfl⟩ | ⟨rfl, rfl⟩ | ⟨rfl, rfl⟩ | ⟨rfl, rfl⟩ |
      ⟨rfl, rfl⟩ | ⟨rfl, rfl⟩ | ⟨rfl, rfl⟩ <;>
    simp [decodeClass8, fieldX_encXYN, fieldY_encXYN, fieldN_encXYN]

end Sys2Proof

namespace Sys2Proof.Machine

/-! ### The ALU's results as numbers (R107 to R112) -/

theorem toNat_sumByte (a b : Byte) : (sumByte a b).toNat = (a.toNat + b.toNat) % 256 := by
  simp [sumByte]

theorem toNat_diffByte (a b : Byte) : (diffByte a b).toNat = (a.toNat + 256 - b.toNat) % 256 := by
  simp [diffByte]

theorem toNat_shrByte (a : Byte) : (shrByte a).toNat = a.toNat / 2 := by
  simp [shrByte, Nat.shiftRight_eq_div_pow]

theorem toNat_shlByte (a : Byte) : (shlByte a).toNat = a.toNat * 2 % 256 := by
  simp [shlByte, Nat.shiftLeft_eq]

/-! ### The ALU's flags (R107 to R112) -/

theorem flagByte_decide (p : Prop) [Decidable p] : flagByte (decide p) = if p then 1 else 0 := by
  simp [flagByte]

/-- A flag that is bit `k` of a byte, as a number. -/
theorem toNat_flagByte_getLsbD (a : Byte) (k : Nat) :
    (flagByte (a.getLsbD k)).toNat = a.toNat / 2 ^ k % 2 := by
  have hbool (b : Bool) : (flagByte b).toNat = b.toNat := by cases b <;> rfl
  rw [hbool, BitVec.getLsbD, Nat.toNat_testBit]

theorem toNat_shrFlag (a : Byte) : (shrFlag a).toNat = a.toNat % 2 := by
  rw [shrFlag, toNat_flagByte_getLsbD, pow_zero, Nat.div_one]

/-- Bit 7 is the top bit of a byte, so it is the whole quotient by 128. -/
theorem toNat_shlFlag (a : Byte) : (shlFlag a).toNat = a.toNat / 128 := by
  have := a.isLt
  rw [shlFlag, toNat_flagByte_getLsbD]
  omega

/-! ### A result without a flag (R101 to R106) -/

/-- The effect of an instruction that writes a byte to `V[x]` and no flag. -/
theorem setV_effect (s : State) (x : Nibble) (b : Byte) :
    (s.setV x b).getV x = b ∧ RegsSameBut [x] s (s.setV x b) ∧ SameBut [.regs] s (s.setV x b) :=
  ⟨s.getV_setV_same x b, RegsSameBut.setV s x b, SameBut.setV s x b⟩

/-! ### A result with its flag, the flag last (R100, D16) -/

theorem State.getV_setResultFlag_vf (s : State) (x : Nibble) (r f : Byte) :
    (s.setResultFlag x r f).getV 0xF = f := by
  rw [State.getV_setResultFlag, if_pos (show (0xF : Nibble) = vf from rfl)]

theorem State.getV_setResultFlag_dest (s : State) {x : Nibble} (r f : Byte) (hx : x ≠ 0xF) :
    (s.setResultFlag x r f).getV x = r := by
  rw [State.getV_setResultFlag, if_neg (show ¬ x = vf from hx), if_pos rfl]

/-- The effect of SUB and SUBN, which differ in which operand is the minuend `a`. -/
theorem setResultFlag_difference (s : State) (x : Nibble) (a b : Byte) :
    let t := s.setResultFlag x (diffByte a b) (noBorrowFlag a b)
    t.getV 0xF = (if a.toNat ≥ b.toNat then 1 else 0)
      ∧ (x ≠ 0xF → (t.getV x).toNat = (a.toNat + 256 - b.toNat) % 256)
      ∧ RegsSameBut [x, 0xF] s t ∧ SameBut [.regs] s t := by
  refine ⟨?flag, fun hx => ?result, RegsSameBut.setResultFlag s x _ _,
    SameBut.setResultFlag s x _ _⟩
  case flag => rw [State.getV_setResultFlag_vf, noBorrowFlag, flagByte_decide]
  case result => rw [State.getV_setResultFlag_dest s _ _ hx, toNat_diffByte]

/-! ### The statements -/

/-- Settles O8: the carry goes to `VF` after the sum went to `V[X]`. -/
theorem addRegistersSetsCarryLast : Obligations.AddRegistersSetsCarryLast := by
  intro x y s
  refine ⟨decodeWord_encXYN_of_mem_class8Rows (by simp [class8Rows]), _, rfl, ?flag,
    fun hx => ?result, RegsSameBut.setResultFlag s x _ _, SameBut.setResultFlag s x _ _⟩
  case flag => rw [State.getV_setResultFlag_vf, carryFlag, flagByte_decide]
  case result => rw [State.getV_setResultFlag_dest s _ _ hx, toNat_sumByte]

/-- Settles O9: SUB and SUBN are one subtraction with the operands in either order. -/
theorem subtractionsSetNotBorrowLast : Obligations.SubtractionsSetNotBorrowLast := fun x y s =>
  ⟨⟨decodeWord_encXYN_of_mem_class8Rows (by simp [class8Rows]), _, rfl,
      setResultFlag_difference s x (s.getV x) (s.getV y)⟩,
    ⟨decodeWord_encXYN_of_mem_class8Rows (by simp [class8Rows]), _, rfl,
      setResultFlag_difference s x (s.getV y) (s.getV x)⟩⟩

/-- Settles O10: half the source goes to `V[X]`, then its remainder to `VF`. -/
theorem shiftRightMovesBitZeroToVF : Obligations.ShiftRightMovesBitZeroToVF := by
  intro x y s
  refine ⟨decodeWord_encXYN_of_mem_class8Rows (by simp [class8Rows]), _, rfl,
    ⟨?flag, fun hx => ?result⟩, RegsSameBut.setResultFlag s x _ _, SameBut.setResultFlag s x _ _⟩
  case flag => rw [State.getV_setResultFlag_vf, toNat_shrFlag, State.shiftSource]
  case result => rw [State.getV_setResultFlag_dest s _ _ hx, toNat_shrByte, State.shiftSource]

/-- Settles O11: twice the source goes to `V[X]`, then the bit that does not fit to `VF`. -/
theorem shiftLeftMovesBitSevenToVF : Obligations.ShiftLeftMovesBitSevenToVF := by
  intro x y s
  refine ⟨decodeWord_encXYN_of_mem_class8Rows (by simp [class8Rows]), _, rfl,
    ⟨?flag, fun hx => ?result⟩, RegsSameBut.setResultFlag s x _ _, SameBut.setResultFlag s x _ _⟩
  case flag => rw [State.getV_setResultFlag_vf, toNat_shlFlag, State.shiftSource]
  case result => rw [State.getV_setResultFlag_dest s _ _ hx, toNat_shlByte, State.shiftSource]

/-- Settles O7: each is one write of `V[X]`, of `V[Y]` or of a bitwise result. -/
theorem copyOrAndXorWriteVxOnly : Obligations.CopyOrAndXorWriteVxOnly := fun x y s =>
  ⟨⟨decodeWord_encXYN_of_mem_class8Rows (by simp [class8Rows]), _, rfl, setV_effect s x _⟩,
    ⟨decodeWord_encXYN_of_mem_class8Rows (by simp [class8Rows]), _, rfl, setV_effect s x _⟩,
    ⟨decodeWord_encXYN_of_mem_class8Rows (by simp [class8Rows]), _, rfl, setV_effect s x _⟩,
    ⟨decodeWord_encXYN_of_mem_class8Rows (by simp [class8Rows]), _, rfl, setV_effect s x _⟩⟩

/-- Settles O5: LD Vx,NN is one write of `V[X]`. -/
theorem loadImmediateSetsVx : Obligations.LoadImmediateSetsVx := fun x nn s =>
  ⟨decodeWord_encXNN_ldImm x nn, _, rfl, setV_effect s x nn⟩

/-- Settles O6: ADD Vx,NN is one write of `V[X]`, so `VF` is kept where `X` is not 0xF. -/
theorem addImmediateWrapsWithoutFlag : Obligations.AddImmediateWrapsWithoutFlag := by
  intro x nn s
  obtain ⟨hdest, hregs, hframe⟩ := setV_effect s x (sumByte (s.getV x) nn)
  exact ⟨decodeWord_encXNN_addImm x nn, _, rfl, by rw [hdest, toNat_sumByte], hregs, hframe⟩

end Sys2Proof.Machine
end

section
/-!
The sprite draw (43_random_draw.md R122, R123): a draw toggles a list of pixels one after the other,
no pixel occurs twice in the list, and the list is the set of pixels that the sprite covers.
-/

namespace Sys2Proof

/-- Decoding of DRW (30_encoding.md R65). -/
theorem decodeWord_encXYN_drw (x y n : Nibble) :
    decodeWord (encXYN 0xD x y n) = .instr (.drw x y n) := by
  simp [decodeWord, fieldClass_encXYN, fieldX_encXYN, fieldY_encXYN, fieldN_encXYN]

end Sys2Proof

namespace Sys2Proof.Machine

/-! ### Toggling a list of pixels -/

/-- Toggle the pixels of a list, given as column and row, one after the other. -/
def togglePixels (ps : List (Nat × Nat)) (acc : Framebuffer × Bool) : Framebuffer × Bool :=
  ps.foldl (fun acc p => togglePixel p.1 p.2 acc) acc

@[simp] theorem togglePixels_nil (acc : Framebuffer × Bool) : togglePixels [] acc = acc := rfl

@[simp] theorem togglePixels_cons (p : Nat × Nat) (ps : List (Nat × Nat))
    (acc : Framebuffer × Bool) :
    togglePixels (p :: ps) acc = togglePixels ps (togglePixel p.1 p.2 acc) := rfl

theorem togglePixels_append (ps qs : List (Nat × Nat)) (acc : Framebuffer × Bool) :
    togglePixels (ps ++ qs) acc = togglePixels qs (togglePixels ps acc) :=
  List.foldl_append

theorem pixel_togglePixel_same (acc : Framebuffer × Bool) {px py : Nat} (hx : px < 64)
    (hy : py < 32) : pixel (togglePixel px py acc).1 px py = !pixel acc.1 px py := by
  simp [(togglePixel_spec px py acc px py).1, hx, hy]

theorem pixel_togglePixel_ne (acc : Framebuffer × Bool) {p q : Nat × Nat} (h : q ≠ p) :
    pixel (togglePixel p.1 p.2 acc).1 q.1 q.2 = pixel acc.1 q.1 q.2 := by
  have : ¬ (q.1 = p.1 ∧ q.2 = p.2 ∧ p.1 < 64 ∧ p.2 < 32) := fun e => h (Prod.ext e.1 e.2.1)
  rw [(togglePixel_spec ..).1, decide_eq_false this, Bool.xor_false]

theorem pixel_togglePixels_of_notMem {ps : List (Nat × Nat)} {q : Nat × Nat} (h : q ∉ ps)
    (acc : Framebuffer × Bool) :
    pixel (togglePixels ps acc).1 q.1 q.2 = pixel acc.1 q.1 q.2 := by
  induction ps generalizing acc with
  | nil => rfl
  | cons p ps ih =>
    obtain ⟨hp, hps⟩ := not_or.1 (List.mem_cons.not.1 h)
    rw [togglePixels_cons, ih hps, pixel_togglePixel_ne acc hp]

/-- A pixel of the grid that is listed once is inverted. -/
theorem pixel_togglePixels_of_mem {ps : List (Nat × Nat)} (hnd : ps.Nodup) {px py : Nat}
    (h : (px, py) ∈ ps) (hx : px < 64) (hy : py < 32) (acc : Framebuffer × Bool) :
    pixel (togglePixels ps acc).1 px py = !pixel acc.1 px py := by
  induction ps generalizing acc with
  | nil => cases h
  | cons p ps ih =>
    obtain ⟨hp, hps⟩ := List.nodup_cons.1 hnd
    rw [togglePixels_cons]
    rcases List.mem_cons.1 h with rfl | h
    · rw [pixel_togglePixels_of_notMem hp, pixel_togglePixel_same acc hx hy]
    · rw [ih hps h, pixel_togglePixel_ne (p := p) (q := (px, py)) acc (ne_of_mem_of_not_mem h hp)]

/-- Where no pixel is listed twice, a collision is a listed pixel that was on before all. -/
theorem togglePixels_collision {ps : List (Nat × Nat)} (hnd : ps.Nodup)
    (acc : Framebuffer × Bool) :
    (togglePixels ps acc).2 = true ↔ acc.2 = true ∨ ∃ q ∈ ps, pixel acc.1 q.1 q.2 = true := by
  induction ps generalizing acc with
  | nil => simp
  | cons p ps ih =>
    obtain ⟨hp, hps⟩ := List.nodup_cons.1 hnd
    have hrest : (∃ q ∈ ps, pixel (togglePixel p.1 p.2 acc).1 q.1 q.2 = true)
        ↔ ∃ q ∈ ps, pixel acc.1 q.1 q.2 = true := by
      refine exists_congr fun q => and_congr_right fun hq => ?_
      rw [pixel_togglePixel_ne acc (ne_of_mem_of_not_mem hq hp)]
    rw [togglePixels_cons, ih hps, hrest, (togglePixel_spec p.1 p.2 acc 0 0).2]
    simp [or_assoc]

theorem on_grid_of_pixel {fb : Framebuffer} {px py : Nat} (h : pixel fb px py = true) :
    px < 64 ∧ py < 32 := by
  by_contra hout
  simp [pixel, hout] at h

/-! ### The pixels of a sprite -/

/-- The pixels that the set bits among the columns of `cols` of one sprite row land on. -/
def rowPixels (wrap : Bool) (x0 y : Nat) (b : Byte) (cols : List Nat) : List (Nat × Nat) :=
  (cols.filter (spriteBit b)).map fun col => (landX wrap (x0 + col), landY wrap y)

/-- The pixels that the set bits of a sprite land on, in the order in which they are drawn. -/
def spritePixels (wrap : Bool) (x0 : Nat) : Nat → List Byte → List (Nat × Nat)
  | _, [] => []
  | y, b :: bs => rowPixels wrap x0 y b (List.range' 0 8) ++ spritePixels wrap x0 (y + 1) bs

theorem drawCols_eq_togglePixels (wrap : Bool) (x0 y : Nat) (b : Byte) (n col : Nat)
    (acc : Framebuffer × Bool) :
    drawCols wrap x0 y b n col acc
      = togglePixels (rowPixels wrap x0 y b (List.range' col n)) acc := by
  induction n generalizing col acc with
  | zero => rfl
  | succ n ih =>
    rw [drawCols, ih, List.range'_succ]
    cases hbit : spriteBit b col <;> simp [rowPixels, drawPixel, hbit]

theorem drawRows_eq_togglePixels (wrap : Bool) (x0 y : Nat) (bs : List Byte)
    (acc : Framebuffer × Bool) :
    drawRows wrap x0 y bs acc = togglePixels (spritePixels wrap x0 y bs) acc := by
  induction bs generalizing y acc with
  | nil => rfl
  | cons b bs ih =>
    rw [drawRows, ih, drawCols_eq_togglePixels, spritePixels, togglePixels_append]

theorem mem_rowPixels {wrap : Bool} {x0 y : Nat} {b : Byte} {cols : List Nat} {p : Nat × Nat} :
    p ∈ rowPixels wrap x0 y b cols ↔
      ∃ col ∈ cols, spriteBit b col = true ∧ p = (landX wrap (x0 + col), landY wrap y) := by
  simp only [rowPixels, List.mem_map, List.mem_filter, and_assoc, eq_comm (a := p)]

/-- The pixels of a sprite, by the row and the column of the bit that lands on them. -/
theorem mem_spritePixels {wrap : Bool} {x0 y : Nat} {bs : List Byte} {p : Nat × Nat} :
    p ∈ spritePixels wrap x0 y bs ↔
      ∃ row col b, bs[row]? = some b ∧ col < 8 ∧ spriteBit b col = true
        ∧ p = (landX wrap (x0 + col), landY wrap (y + row)) := by
  induction bs generalizing y with
  | nil => simp [spritePixels]
  | cons b bs ih =>
    rw [spritePixels, List.mem_append, mem_rowPixels, ih]
    constructor
    · rintro (⟨col, hcol, hbit, hp⟩ | ⟨row, col, c, hc, hcol, hbit, hp⟩)
      · exact ⟨0, col, b, rfl, by simpa using hcol, hbit, hp⟩
      · exact ⟨row + 1, col, c, hc, hcol, hbit, by rw [hp, Nat.add_right_comm, Nat.add_assoc]⟩
    · rintro ⟨_ | row, col, c, hc, hcol, hbit, hp⟩
      · obtain rfl : b = c := by simpa using hc
        exact .inl ⟨col, by simpa using hcol, hbit, hp⟩
      · exact .inr ⟨row, col, c, hc, hcol, hbit, by rw [hp, Nat.add_right_comm, Nat.add_assoc]⟩

/-! ### No pixel is drawn twice -/

theorem landX_inj {wrap : Bool} {x0 c d : Nat} (hc : c < 8) (hd : d < 8)
    (h : landX wrap (x0 + c) = landX wrap (x0 + d)) : c = d := by
  cases wrap <;> simp only [landX, if_true, Bool.false_eq_true, if_false] at h <;> omega

theorem landY_ne {wrap : Bool} {y row : Nat} (h : row + 1 < 32) :
    landY wrap y ≠ landY wrap (y + 1 + row) := by
  cases wrap <;> simp only [landY, if_true, Bool.false_eq_true, if_false] <;> omega

theorem nodup_rowPixels (wrap : Bool) (x0 y : Nat) (b : Byte) :
    (rowPixels wrap x0 y b (List.range' 0 8)).Nodup := by
  refine List.Nodup.map_on (fun c hc d hd e => ?_) (List.Nodup.filter _ List.nodup_range')
  have lt_of_mem {k : Nat} (hk : k ∈ (List.range' 0 8).filter (spriteBit b)) : k < 8 := by
    simpa using (List.mem_filter.1 hk).1
  exact landX_inj (lt_of_mem hc) (lt_of_mem hd) (congrArg Prod.fst e)

/-- A sprite of at most 32 rows has its rows on different rows of the grid, wrapped or not. -/
theorem nodup_spritePixels (wrap : Bool) (x0 y : Nat) {bs : List Byte} (h : bs.length ≤ 32) :
    (spritePixels wrap x0 y bs).Nodup := by
  induction bs generalizing y with
  | nil => exact List.nodup_nil
  | cons b bs ih =>
    rw [List.length_cons] at h
    refine List.Nodup.append (nodup_rowPixels wrap x0 y b) (ih (y + 1) (by omega)) ?_
    intro p hp hq
    obtain ⟨_, _, _, rfl⟩ := mem_rowPixels.1 hp
    obtain ⟨row, col, c, hc, _, _, he⟩ := mem_spritePixels.1 hq
    obtain ⟨hrow, _⟩ := List.getElem?_eq_some_iff.1 hc
    exact landY_ne (by omega) (congrArg Prod.snd he)

/-! ### The sprite of a state -/

/-- The pixels of the `n`-row sprite at `I`, drawn at column `x0`, row `y0`. -/
def State.spritePixels (s : State) (x0 y0 n : Nat) : List (Nat × Nat) :=
  Machine.spritePixels s.cfg.drawWrap x0 y0 (s.readBytes s.i.toNat n)

theorem State.drawSprite_eq (s : State) (x0 y0 n : Nat) :
    s.drawSprite x0 y0 n = togglePixels (s.spritePixels x0 y0 n) (s.fb, false) :=
  drawRows_eq_togglePixels ..

theorem State.nodup_spritePixels (s : State) (x0 y0 : Nat) {n : Nat} (h : n ≤ 32) :
    (s.spritePixels x0 y0 n).Nodup :=
  Machine.nodup_spritePixels _ x0 y0 (by simpa using h)

/-- The pixels a draw toggles are those the sprite covers. -/
theorem State.mem_spritePixels {s : State} {x0 y0 n px py : Nat} :
    (px, py) ∈ s.spritePixels x0 y0 n ↔ SpriteCovers s x0 y0 n px py := by
  have hland (row col : Nat) :
      (px, py) = (landX s.cfg.drawWrap (x0 + col), landY s.cfg.drawWrap (y0 + row)) ↔
        if s.cfg.drawWrap then px = (x0 + col) % 64 ∧ py = (y0 + row) % 32
        else px = x0 + col ∧ py = y0 + row := by
    cases s.cfg.drawWrap <;> simp [landX, landY]
  have hbyte (row : Nat) (b : Byte) :
      (s.readBytes s.i.toNat n)[row]? = some b ↔ row < n ∧ s.readByte (s.i.toNat + row) = b := by
    by_cases h : row < n
    · rw [s.getElem?_readBytes _ h, Option.some_inj, and_iff_right h]
    · simp [h]
  simp only [State.spritePixels, Machine.mem_spritePixels, SpriteCovers, spriteBit, hbyte, hland]
  constructor
  · rintro ⟨row, col, _, ⟨hrow, rfl⟩, h⟩
    exact ⟨row, col, hrow, h⟩
  · rintro ⟨row, col, hrow, h⟩
    exact ⟨row, col, _, ⟨hrow, rfl⟩, h⟩

/-! ### What a draw does to the display and the flag (R122, R123) -/

section drawSprite
variable (s : State) {x0 y0 n px py : Nat}

theorem State.pixel_drawSprite_of_covers (hn : n ≤ 32) (hx : px < 64) (hy : py < 32)
    (h : SpriteCovers s x0 y0 n px py) :
    pixel (s.drawSprite x0 y0 n).1 px py = !pixel s.fb px py := by
  rw [State.drawSprite_eq]
  exact pixel_togglePixels_of_mem (s.nodup_spritePixels x0 y0 hn) (State.mem_spritePixels.2 h)
    hx hy _

theorem State.pixel_drawSprite_of_not_covers (h : ¬ SpriteCovers s x0 y0 n px py) :
    pixel (s.drawSprite x0 y0 n).1 px py = pixel s.fb px py := by
  rw [State.drawSprite_eq]
  exact pixel_togglePixels_of_notMem (q := (px, py)) (State.mem_spritePixels.not.2 h) _

theorem State.drawSprite_collision (hn : n ≤ 32) :
    (s.drawSprite x0 y0 n).2 = true ↔
      ∃ px py : Nat, px < 64 ∧ py < 32 ∧ pixel s.fb px py = true ∧ SpriteCovers s x0 y0 n px py := by
  rw [State.drawSprite_eq, togglePixels_collision (s.nodup_spritePixels x0 y0 hn)]
  constructor
  · rintro (h | ⟨q, hq, hon⟩)
    · cases h
    · obtain ⟨hx, hy⟩ := on_grid_of_pixel hon
      exact ⟨q.1, q.2, hx, hy, hon, State.mem_spritePixels.1 hq⟩
  · rintro ⟨px, py, _, _, hon, hcov⟩
    exact .inr ⟨(px, py), State.mem_spritePixels.2 hcov, hon⟩

end drawSprite

theorem flagByte_eq_zero_or_one (b : Bool) : flagByte b = 0 ∨ flagByte b = 1 := by
  cases b <;> decide

theorem flagByte_eq_one_iff (b : Bool) : flagByte b = 1 ↔ b = true := by
  cases b <;> decide

/-! ### The two outcomes of DRW -/

/-- The state that a draw leaves: the sprite on the display, then the collision in `VF`. -/
def State.afterDraw (s : State) (x y n : Nibble) : State :=
  let drawn := s.drawSprite (s.getV x).toNat (s.getV y).toNat n.toNat
  (s.display drawn.1).setV vf (flagByte drawn.2)

theorem exec_drw_of_fits {x y n : Nibble} {s : State}
    (h : n = 0 ∨ s.i.toNat + n.toNat ≤ 0x1000) :
    exec (.drw x y n) s = .next (s.afterDraw x y n) := by
  have hcheck : s.checkRange n.toNat .read = none :=
    (s.checkRange_eq_none _ _).2 (h.imp (congrArg BitVec.toNat) fun hend => ⟨hend, nofun⟩)
  simp only [exec, execDrw, hcheck, State.afterDraw]

theorem State.checkRange_of_overflow {s : State} {n : Nat} (k : AccessKind) (hn : n ≠ 0)
    (h : 0x1000 < s.i.toNat + n) : s.checkRange n k = some (.addressOverflow, s.i) := by
  rw [State.checkRange, if_neg hn, if_pos (by unfold maxAddr; omega)]

theorem exec_drw_of_overflow {x y n : Nibble} {s : State} (hn : n ≠ 0)
    (h : 0x1000 < s.i.toNat + n.toNat) :
    exec (.drw x y n) s
      = .next (s.takeFault .addressOverflow (s.pc - 2) (encode (.drw x y n)) s.i) := by
  have hn' : n.toNat ≠ 0 := fun e => hn (BitVec.eq_of_toNat_eq e)
  simp only [exec, execDrw, State.checkRange_of_overflow .read hn' h, raise]

/-- Settles O22: the pixels a draw toggles are the covered ones, each once, so each is inverted and
a collision is a covered pixel that was on before the draw. -/
theorem drawInvertsCoveredPixels : Obligations.DrawInvertsCoveredPixels := by
  intro x y n s
  have hn : n.toNat ≤ 32 := by have := n.isLt; omega
  refine ⟨decodeWord_encXYN_drw x y n, fun hfits => ?draws, fun hne hover => ?faults⟩
  case draws =>
    have hvf : (s.afterDraw x y n).getV 0xF
        = flagByte (s.drawSprite (s.getV x).toNat (s.getV y).toNat n.toNat).2 :=
      State.getV_setV_same _ vf _
    refine ⟨s.afterDraw x y n, exec_drw_of_fits hfits, fun px py hx hy => ⟨?covered, ?others⟩,
      hvf ▸ flagByte_eq_zero_or_one _, ?flag, rfl, RegsSameBut.setV (s.display _) vf _,
      ((SameBut.display s _).trans (SameBut.setV _ vf _)).mono (by simp)⟩
    case covered => exact s.pixel_drawSprite_of_covers hn hx hy
    case others => exact s.pixel_drawSprite_of_not_covers
    case flag => rw [hvf, flagByte_eq_one_iff, s.drawSprite_collision hn]
  case faults =>
    exact ⟨_, exec_drw_of_overflow hne hover, FaultTaken.takeFault s .addressOverflow _ _⟩

end Sys2Proof.Machine
end

section
/-!
The timer and wait-for-key instructions (44_keypad_timer.md R130 to R133): the lowest pressed key, the
writes of the two timers, and the statements of the family.
-/

namespace Sys2Proof

/-! ### Decoding of class F (30_encoding.md R65) -/

/-- The rows of class F in the opcode map: the minor opcode and its instruction. -/
def classFRows (x : Nibble) : List (Byte × Instr) :=
  [(0x07, .ldVxDt x), (0x0A, .ldVxK x), (0x15, .ldDtVx x), (0x18, .ldStVx x), (0x1E, .addI x),
    (0x29, .ldF x), (0x33, .ldB x), (0x55, .storeRegs x), (0x65, .loadRegs x)]

theorem decodeWord_encXNN_of_mem_classFRows {x : Nibble} {nn : Byte} {i : Instr}
    (h : (nn, i) ∈ classFRows x) : decodeWord (encXNN 0xF x nn) = .instr i := by
  have hminor : decodeWord (encXNN 0xF x nn) = decodeClassF (encXNN 0xF x nn) := by
    simp [decodeWord, fieldClass_encXNN]
  simp only [classFRows, List.mem_cons, Prod.mk.injEq, List.not_mem_nil, or_false] at h
  rw [hminor]
  rcases h with ⟨rfl, rfl⟩ | ⟨rfl, rfl⟩ | ⟨rfl, rfl⟩ | ⟨rfl, rfl⟩ | ⟨rfl, rfl⟩ | ⟨rfl, rfl⟩ |
      ⟨rfl, rfl⟩ | ⟨rfl, rfl⟩ | ⟨rfl, rfl⟩ <;>
    simp [decodeClassF, fieldX_encXNN, fieldNN_encXNN]

end Sys2Proof

namespace Sys2Proof.Machine

/-! ### The lowest pressed key (R131, D24) -/

theorem State.key_ofNat (s : State) (k : Fin 16) :
    s.key (BitVec.ofNat 4 k.val) = s.keypad[k] := by
  simp [State.key]

theorem firstKeyFrom_of_no_key {s : State} (h : ∀ k : Fin 16, s.keypad[k] = false) (n j : Nat) :
    firstKeyFrom s n j = none := by
  induction n generalizing j with
  | zero => rfl
  | succ n ih =>
    have hj : s.key (BitVec.ofNat 4 j) = false := h ⟨_, (BitVec.ofNat 4 j).isLt⟩
    rw [firstKeyFrom, hj, if_neg Bool.false_ne_true, ih]

/-- A search that starts at or below the lowest pressed key and reaches it finds it. -/
theorem firstKeyFrom_of_lowest {s : State} {k : Fin 16} (hk : s.keypad[k] = true)
    (hlow : ∀ i : Fin 16, i < k → s.keypad[i] = false) {n j : Nat} (hle : j ≤ k.val)
    (hlt : k.val < j + n) : firstKeyFrom s n j = some (BitVec.ofNat 4 k.val) := by
  induction n generalizing j with
  | zero => omega
  | succ n ih =>
    rw [firstKeyFrom]
    rcases hle.eq_or_lt with rfl | hbelow
    · rw [s.key_ofNat k, if_pos hk]
    · have hj : s.key (BitVec.ofNat 4 j) = false :=
        (s.key_ofNat ⟨j, hbelow.trans k.isLt⟩).trans (hlow _ hbelow)
      rw [hj, if_neg Bool.false_ne_true, ih hbelow (by omega)]

theorem State.firstKey_of_no_key {s : State} (h : ∀ k : Fin 16, s.keypad[k] = false) :
    s.firstKey = none :=
  firstKeyFrom_of_no_key h 16 0

theorem State.firstKey_of_lowest {s : State} {k : Fin 16} (hk : s.keypad[k] = true)
    (hlow : ∀ i : Fin 16, i < k → s.keypad[i] = false) :
    s.firstKey = some (BitVec.ofNat 4 k.val) :=
  firstKeyFrom_of_lowest hk hlow (Nat.zero_le _) (by omega)

/-! ### The two outcomes of LD Vx,K (R131) -/

theorem execLdVxK_of_no_key (x : Nibble) {s : State} (h : ∀ k : Fin 16, s.keypad[k] = false) :
    execLdVxK x s = .next (s.setPc (s.pc - 2)) := by
  simp [execLdVxK, State.firstKey_of_no_key h]

theorem execLdVxK_of_lowest (x : Nibble) {s : State} {k : Fin 16} (hk : s.keypad[k] = true)
    (hlow : ∀ i : Fin 16, i < k → s.keypad[i] = false) :
    execLdVxK x s = .next (s.setV x ((BitVec.ofNat 4 k.val).setWidth 8)) := by
  simp [execLdVxK, State.firstKey_of_lowest hk hlow]

/-- The number of a key as the byte LD Vx,K writes. -/
theorem toNat_keyByte (k : Fin 16) : ((BitVec.ofNat 4 k.val).setWidth 8).toNat = k.val := by
  rw [BitVec.toNat_setWidth_of_le (by decide), BitVec.toNat_ofNat, Nat.mod_eq_of_lt k.isLt]

/-! ### The writes of the timers (R132, R133) -/

theorem SameBut.setDelayTimer (s : State) (b : Byte) :
    SameBut [.delayTimer] s { s with dt := b } := by
  intro p hp
  cases p
  case delayTimer => simp at hp
  case regs => exact fun _ => rfl
  case memory => exact fun _ => rfl
  case stack => exact ⟨rfl, rfl⟩
  all_goals rfl

theorem SameBut.setSoundTimer (s : State) (b : Byte) :
    SameBut [.soundTimer] s { s with st := b } := by
  intro p hp
  cases p
  case soundTimer => simp at hp
  case regs => exact fun _ => rfl
  case memory => exact fun _ => rfl
  case stack => exact ⟨rfl, rfl⟩
  all_goals rfl

/-- The output `sound_on` is up exactly where the sound timer is not 0 (60_exceptions.md R183). -/
theorem State.soundOn_iff (s : State) : s.soundOn = true ↔ s.st ≠ 0 := bne_iff_ne

/-! ### The statements -/

/-- Settles O25, by the two outcomes of the search for the lowest pressed key. -/
theorem waitForKeyTakesLowestKey : Obligations.WaitForKeyTakesLowestKey := by
  intro x s
  refine ⟨decodeWord_encXNN_of_mem_classFRows (by simp [classFRows]), fun hnone => ?waits,
    fun k hk hlow => ?takes⟩
  case waits => exact ⟨_, execLdVxK_of_no_key x hnone, rfl, SameBut.setPc s _⟩
  case takes =>
    obtain ⟨hdest, hregs, hframe⟩ := setV_effect s x ((BitVec.ofNat 4 k.val).setWidth 8)
    exact ⟨_, execLdVxK_of_lowest x hk hlow, by rw [hdest, toNat_keyByte], hregs, hframe⟩

/-- Settles O24: LD Vx,DT is one write of `V[X]`. -/
theorem readDelayTimerCopiesDT : Obligations.ReadDelayTimerCopiesDT := fun x s =>
  ⟨decodeWord_encXNN_of_mem_classFRows (by simp [classFRows]), _, rfl, setV_effect s x s.dt⟩

/-- Settles O26: each is one write of its timer, and `sound_on` reads the sound timer. -/
theorem writeTimersCopyVx : Obligations.WriteTimersCopyVx := fun x s =>
  ⟨⟨decodeWord_encXNN_of_mem_classFRows (by simp [classFRows]), _, rfl, rfl,
      SameBut.setDelayTimer s _⟩,
    ⟨decodeWord_encXNN_of_mem_classFRows (by simp [classFRows]), _, rfl, rfl, State.soundOn_iff _,
      SameBut.setSoundTimer s _⟩⟩

end Sys2Proof.Machine
end

section
/-!
The index-register and memory instructions (45_index_memory.md R140 to R145): the two faults of a
block access, what a stored or a loaded block reads, and the statements of the family.
-/

namespace Sys2Proof

/-- Decoding of LD I (30_encoding.md R65). -/
theorem decodeWord_encNNN_ldI (nnn : Addr12) : decodeWord (encNNN 0xA nnn) = .instr (.ldI nnn) := by
  simp [decodeWord, fieldClass_encNNN, fieldNNN_encNNN]

end Sys2Proof

namespace Sys2Proof.Machine

/-! ### The index values the instructions compute (R141 to R145) -/

theorem State.toNat_index_add (s : State) (b : Byte) :
    (s.i + b.setWidth 16).toNat = (s.i.toNat + b.toNat) % 65536 := by
  rw [BitVec.toNat_add, BitVec.toNat_setWidth_of_le (by decide)]

/-- The glyph of a byte is the one of its low nibble (R142, D23). -/
theorem toNat_glyphAddr (b : Byte) : (glyphAddr b).toNat = 0x050 + 5 * (b.toNat % 16) := by
  have hlow : ((b.extractLsb' 0 4).setWidth 16).toNat = b.toNat % 16 := by
    rw [BitVec.toNat_setWidth_of_le (by decide)]
    exact BitVec.extractLsb'_toNat ..
  simp only [glyphAddr, BitVec.toNat_add, BitVec.toNat_mul, hlow, BitVec.ofNat_eq_ofNat,
    BitVec.toNat_ofNat]
  omega

/-- Where the block ends in memory, the advanced index does not wrap. -/
theorem State.toNat_indexAfterBlock {s : State} {x : Nibble} (h : s.i.toNat + x.toNat ≤ 0xFFF) :
    (s.indexAfterBlock x).toNat
      = if s.cfg.loadStoreAdvancesI then s.i.toNat + x.toNat + 1 else s.i.toNat := by
  have hx : (x.setWidth 16).toNat = x.toNat := BitVec.toNat_setWidth_of_le (by decide)
  rw [State.indexAfterBlock, apply_ite BitVec.toNat]
  simp only [BitVec.toNat_add, hx, BitVec.ofNat_eq_ofNat, BitVec.toNat_ofNat]
  split <;> omega

/-! ### A block of memory or of registers (20_memory.md R52) -/

theorem State.readByte_writeBytes_of_getElem? {s : State} (h : s.MemWf) (a : Nat) {bs : List Byte}
    {k : Nat} {b : Byte} (hk : bs[k]? = some b) : (s.writeBytes a bs).readByte (a + k) = b := by
  rw [State.readByte_writeBytes bs a _ h, if_pos (Nat.le_add_right a k), Nat.add_sub_cancel_left,
    List.getD_eq_getElem?_getD, hk, Option.getD_some]

theorem MemorySameOutside.writeBytes {s : State} (h : s.MemWf) (a : Nat) {bs : List Byte} {n : Nat}
    (hn : bs.length = n) : MemorySameOutside a n s (s.writeBytes a bs) := fun c hc =>
  State.readByte_writeBytes_outside h a c bs (hn ▸ hc)

theorem State.getV_setRegs_of_getElem? (s : State) {bs : List Byte} (hlen : bs.length ≤ 16)
    {r : Nibble} {b : Byte} (hr : bs[r.toNat]? = some b) : (s.setRegs 0 bs).getV r = b := by
  rw [State.getV_setRegs bs s 0 r (by omega), if_pos (Nat.zero_le _), Nat.sub_zero,
    List.getD_eq_getElem?_getD, hr, Option.getD_some]

theorem State.getV_setRegs_of_length_le (s : State) {bs : List Byte} (hlen : bs.length ≤ 16)
    {r : Nibble} (hr : bs.length ≤ r.toNat) : (s.setRegs 0 bs).getV r = s.getV r := by
  rw [State.getV_setRegs bs s 0 r (by omega), if_pos (Nat.zero_le _), Nat.sub_zero,
    List.getD_eq_getElem?_getD, List.getElem?_eq_none hr, Option.getD_none]

/-! ### The write that meets the font (20_memory.md R49) -/

/-- The first protected address of a range from `w` on, as its two cases. -/
theorem ofNat_max_fontBase (w : Word) :
    BitVec.ofNat 16 (max w.toNat fontBase) = if w.toNat < 0x050 then 0x050 else w := by
  split
  · next hlow => rw [max_eq_right (by unfold fontBase; omega)]; rfl
  · next hfrom =>
    rw [max_eq_left (by unfold fontBase; omega), BitVec.ofNat_toNat, BitVec.setWidth_eq]

theorem State.checkRange_of_font {s : State} {n : Nat} (hn : n ≠ 0)
    (hend : s.i.toNat + n ≤ 0x1000) (hlow : s.i.toNat ≤ 0x09F) (hhigh : 0x050 < s.i.toNat + n) :
    s.checkRange n .write
      = some (.protectedWrite, BitVec.ofNat 16 (max s.i.toNat fontBase)) := by
  rw [State.checkRange, if_neg hn, if_neg (by unfold maxAddr; omega),
    if_pos ⟨rfl, hlow, by unfold fontBase; omega⟩]

/-! ### The outcomes of an instruction that checks its range first (20_memory.md R49) -/

/-- The shape of the block instructions: the fault of the check, or the effect `f`. -/
def State.afterCheck (s : State) (n : Nat) (k : AccessKind) (i : Instr) (f : State) : Answer :=
  match s.checkRange n k with
  | some (c, info) => raise c (encode i) info s
  | none => .next f

theorem exec_ldB (x : Nibble) (s : State) :
    exec (.ldB x) s
      = s.afterCheck 3 .write (.ldB x) (s.writeBytes s.i.toNat (bcdDigits (s.getV x))) := rfl

theorem exec_storeRegs (x : Nibble) (s : State) :
    exec (.storeRegs x) s
      = s.afterCheck (x.toNat + 1) .write (.storeRegs x)
          ((s.writeBytes s.i.toNat (s.getRegs (x.toNat + 1))).setI (s.indexAfterBlock x)) := rfl

theorem exec_loadRegs (x : Nibble) (s : State) :
    exec (.loadRegs x) s
      = s.afterCheck (x.toNat + 1) .read (.loadRegs x)
          ((s.setRegs 0 (s.readBytes s.i.toNat (x.toNat + 1))).setI (s.indexAfterBlock x)) := rfl

section afterCheck
variable {s : State} {n : Nat} {k : AccessKind} (i : Instr) (f : State)

theorem State.afterCheck_of_passes (hend : s.i.toNat + n ≤ 0x1000)
    (hfont : k = .write → 0x09F < s.i.toNat ∨ s.i.toNat + n ≤ 0x050) :
    s.afterCheck n k i f = .next f := by
  simp only [State.afterCheck, (s.checkRange_eq_none n k).2 (.inr ⟨hend, hfont⟩)]

theorem State.afterCheck_of_overflow (hn : n ≠ 0) (h : 0x1000 < s.i.toNat + n) :
    ∃ t, s.afterCheck n k i f = .next t ∧ FaultTaken 3 (encode i) s.i s t := by
  simp only [State.afterCheck, State.checkRange_of_overflow k hn h]
  exact ⟨_, rfl, FaultTaken.takeFault s .addressOverflow _ _⟩

/-- A write of a block of at most 16 bytes that meets the font ends far below 0x1000. -/
theorem State.afterCheck_of_font (hn : n ≠ 0) (hle : n ≤ 16) (hlow : s.i.toNat ≤ 0x09F)
    (hhigh : 0x050 < s.i.toNat + n) :
    ∃ t, s.afterCheck n .write i f = .next t
      ∧ FaultTaken 6 (encode i) (if s.i.toNat < 0x050 then 0x050 else s.i) s t := by
  simp only [State.afterCheck, State.checkRange_of_font hn (by omega) hlow hhigh,
    ofNat_max_fontBase]
  exact ⟨_, rfl, FaultTaken.takeFault s .protectedWrite _ _⟩

end afterCheck

/-! ### The statements -/

/-- Settles O29: the range check of three bytes, then one digit for each of them. -/
theorem bcdStoresThreeDigits : Obligations.BcdStoresThreeDigits := by
  intro x s hwf
  rw [exec_ldB]
  refine ⟨decodeWord_encXNN_of_mem_classFRows (by simp [classFRows]), fun hend hfont => ?stores,
    fun hover => State.afterCheck_of_overflow _ _ (by decide) (by omega),
    fun hlow hhigh => State.afterCheck_of_font _ _ (by decide) (by decide) hlow (by omega)⟩
  case stores =>
    have hv := (s.getV x).isLt
    have hdigit {k d : Nat} (hk : (bcdDigits (s.getV x))[k]? = some (BitVec.ofNat 8 d))
        (hd : d < 256) :
        ((s.writeBytes s.i.toNat (bcdDigits (s.getV x))).readByte (s.i.toNat + k)).toNat = d := by
      rw [State.readByte_writeBytes_of_getElem? hwf _ hk, BitVec.toNat_ofNat, Nat.mod_eq_of_lt hd]
    exact ⟨_, State.afterCheck_of_passes _ _ (by omega) fun _ => by omega,
      hdigit (k := 0) rfl (by omega), hdigit (k := 1) rfl (by omega),
      hdigit (k := 2) rfl (by omega),
      MemorySameOutside.writeBytes hwf _ rfl, SameBut.writeBytes s _ _⟩

/-- Settles O30: the range check of `X + 1` bytes, then the block of registers in memory. -/
theorem blockStoreCopiesRegisters : Obligations.BlockStoreCopiesRegisters := by
  intro x s hwf
  have hx := x.isLt
  rw [exec_storeRegs]
  refine ⟨decodeWord_encXNN_of_mem_classFRows (by simp [classFRows]), fun hend hfont => ?stores,
    fun hover => State.afterCheck_of_overflow _ _ (by omega) (by omega),
    fun hlow hhigh => State.afterCheck_of_font _ _ (by omega) (by omega) hlow (by omega)⟩
  case stores =>
    refine ⟨_, State.afterCheck_of_passes _ _ (by omega) fun _ => by omega, fun k hk => ?copied,
      MemorySameOutside.writeBytes hwf _ (s.length_getRegs _), State.toNat_indexAfterBlock hend,
      (SameBut.writeBytes s _ _).trans (SameBut.setI _ _)⟩
    case copied =>
      have hreg : (s.getRegs (x.toNat + 1))[k.toNat]? = some (s.getV k) := by
        rw [s.getElem?_getRegs (by omega), BitVec.ofNat_toNat, BitVec.setWidth_eq]
      exact State.readByte_writeBytes_of_getElem? hwf _ hreg

/-- Settles O31: the range check of `X + 1` bytes, then the block of memory in the registers. -/
theorem blockLoadFillsRegisters : Obligations.BlockLoadFillsRegisters := by
  intro x s
  have hx := x.isLt
  rw [exec_loadRegs]
  refine ⟨decodeWord_encXNN_of_mem_classFRows (by simp [classFRows]), fun hend => ?loads,
    fun hover => State.afterCheck_of_overflow _ _ (by omega) (by omega)⟩
  case loads =>
    have hlen : (s.readBytes s.i.toNat (x.toNat + 1)).length = x.toNat + 1 := s.length_readBytes _ _
    refine ⟨_, State.afterCheck_of_passes _ _ (by omega) nofun, fun k hk => ?loaded,
      fun k hk => ?kept, State.toNat_indexAfterBlock hend,
      (SameBut.setRegs s _ _).trans (SameBut.setI _ _)⟩
    case loaded =>
      exact s.getV_setRegs_of_getElem? (by omega) (s.getElem?_readBytes _ (by omega))
    case kept => exact s.getV_setRegs_of_length_le (by omega) (by omega)

/-- Settles O27: each is one write of `I`. -/
theorem indexInstructionsWriteIOnly : Obligations.IndexInstructionsWriteIOnly :=
  ⟨fun nnn s => ⟨decodeWord_encNNN_ldI nnn, _, rfl, toNat_zextAddr nnn, SameBut.setI s _⟩,
    fun x s =>
      ⟨⟨decodeWord_encXNN_of_mem_classFRows (by simp [classFRows]), _, rfl,
          s.toNat_index_add (s.getV x), SameBut.setI s _⟩,
        ⟨decodeWord_encXNN_of_mem_classFRows (by simp [classFRows]), _, rfl,
          toNat_glyphAddr (s.getV x), SameBut.setI s _⟩⟩⟩

end Sys2Proof.Machine
end

section
/-!
The SYS space and the unknown words (46_unknown_opcode.md R150, R151): the words of class 0 that are
neither CLS nor RET, and the diagnostic as the one effect.
-/

namespace Sys2Proof

/-- The `NNN` of a word of class 0 other than CLS and RET is SYS's (30_encoding.md R65 row 35). -/
theorem decodeWord_encNNN_sys {nnn : Addr12} (hcls : nnn ≠ 0x0E0) (hret : nnn ≠ 0x0EE) :
    decodeWord (encNNN 0x0 nnn) = .instr (.sys nnn) := by
  have hne {w : Word} (h : nnn ≠ fieldNNN w) : encNNN 0x0 nnn ≠ w := fun heq =>
    h (heq ▸ (fieldNNN_encNNN 0x0 nnn).symm)
  have hclass : decodeWord (encNNN 0x0 nnn) = decodeClass0 (encNNN 0x0 nnn) := by
    simp [decodeWord, fieldClass_encNNN]
  rw [hclass, decodeClass0, if_neg (hne (w := 0x00E0#16) hcls),
    if_neg (hne (w := 0x00EE#16) hret), fieldNNN_encNNN]

end Sys2Proof

namespace Sys2Proof.Machine

/-- The one effect of SYS and of an unknown word: the Tick reports the word and the address of the
instruction, and every other part is kept (R150). -/
theorem diag_effect (s : State) (op : Word) :
    (s.diag op).tickResult = .okDiag op (s.pc - 2) ∧ SameBut [.tickResult] s (s.diag op) :=
  ⟨s.diag_tickResult op, SameBut.diag s op⟩

/-- Settles O32: SYS and an unknown word both do nothing but report their word. -/
theorem unknownIsNoOpWithDiagnostic : Obligations.UnknownIsNoOpWithDiagnostic := by
  refine ⟨fun nnn s => ⟨decodeWord_encNNN_sys, ?sys⟩, fun op s => ?unknown⟩
  case sys => exact ⟨_, rfl, diag_effect s (encNNN 0x0 nnn)⟩
  case unknown => exact ⟨_, rfl, diag_effect s op⟩

end Sys2Proof.Machine
end

section
/-!
The decoder against the encoder, from the word's side (30_encoding.md R64): the instruction a word
decodes to encodes to that word.
-/

namespace Sys2Proof

/-! ### A word of each format from its fields -/

section fields
variable {op : Word} {c : Nibble} (hc : (fieldClass op).toNat = c.toNat)
include hc

theorem encNNN_of_fieldClass : encNNN c (fieldNNN op) = op := by
  rw [← BitVec.eq_of_toNat_eq hc, encNNN_fields]

theorem encXNN_of_fieldNN {nn : Byte} (hnn : (fieldNN op).toNat = nn.toNat) :
    encXNN c (fieldX op) nn = op := by
  rw [← BitVec.eq_of_toNat_eq hc, ← BitVec.eq_of_toNat_eq hnn, encXNN_fields]

theorem encXYN_of_fieldN {n : Nibble} (hn : (fieldN op).toNat = n.toNat) :
    encXYN c (fieldX op) (fieldY op) n = op := by
  rw [← BitVec.eq_of_toNat_eq hc, ← BitVec.eq_of_toNat_eq hn, encXYN_fields]

end fields

/-! ### The four classes with a table of their own -/

section classes
variable {op : Word} {i : Instr}

theorem encode_of_decodeClass0 (hc : (fieldClass op).toNat = 0x0)
    (h : decodeClass0 op = .instr i) : encode i = op := by
  unfold decodeClass0 at h
  split at h
  case isTrue hcls => cases h; exact hcls.symm
  case isFalse =>
    split at h
    case isTrue hret => cases h; exact hret.symm
    case isFalse => cases h; exact encNNN_of_fieldClass hc

theorem encode_of_decodeClass8 (hc : (fieldClass op).toNat = 0x8)
    (h : decodeClass8 op = .instr i) : encode i = op := by
  unfold decodeClass8 at h
  split at h <;> cases h
  all_goals next hn => exact encXYN_of_fieldN hc hn

theorem encode_of_decodeClassE (hc : (fieldClass op).toNat = 0xE)
    (h : decodeClassE op = .instr i) : encode i = op := by
  unfold decodeClassE at h
  split at h <;> cases h
  all_goals next hnn => exact encXNN_of_fieldNN hc hnn

theorem encode_of_decodeClassF (hc : (fieldClass op).toNat = 0xF)
    (h : decodeClassF op = .instr i) : encode i = op := by
  unfold decodeClassF at h
  split at h <;> cases h
  all_goals next hnn => exact encXNN_of_fieldNN hc hnn

/-- The word an instruction was decoded from is its encoding. The cases are the classes of `n3`, and
`h_16` is the last arm, which is left to class F. -/
theorem encode_of_decodeWord (h : decodeWord op = .instr i) : encode i = op := by
  simp only [decodeWord] at h
  split at h
  case h_1 hc => exact encode_of_decodeClass0 hc h
  case h_6 hc | h_10 hc =>
    split at h <;> cases h
    next hn => exact encXYN_of_fieldN hc (congrArg BitVec.toNat hn)
  case h_9 hc => exact encode_of_decodeClass8 hc h
  case h_15 hc => exact encode_of_decodeClassE hc h
  case h_16 =>
    have hc : (fieldClass op).toNat = 0xF := by
      have := (fieldClass op).isLt
      simp only [imp_false] at *
      omega
    exact encode_of_decodeClassF hc h
  case h_2 hc | h_3 hc | h_11 hc | h_12 hc => cases h; exact encNNN_of_fieldClass hc
  case h_14 hc => cases h; exact encXYN_of_fieldN hc rfl
  all_goals next hc => cases h; exact encXNN_of_fieldNN hc rfl

end classes

end Sys2Proof
end

section
/-!
The faults and the events (60_exceptions.md R160 to R187): the one way a Tick takes a fault, what each
host event writes, and the statements of the family.
-/

namespace Sys2Proof.Machine

/-! ### The one way a Tick takes a fault (R162, R163) -/

theorem FaultCause.code_eq_four_iff (c : FaultCause) : c.code = 4 ↔ c = .pcOutOfRange := by
  cases c <;> decide

/-- The cause codes are 1 to 6 (R160). -/
theorem FaultCause.code_bounds (c : FaultCause) : 1 ≤ c.code.toNat ∧ c.code.toNat ≤ 6 := by
  cases c <;> decide

/-- Fault entry undoes what the fetch did. -/
theorem State.takeFault_afterFetch (s : State) (c : FaultCause) (ia op info : Word) :
    s.afterFetch.takeFault c ia op info = s.takeFault c ia op info := rfl

/-- Fault entry at the current `pc` keeps `pc` too. -/
theorem SameBut.takeFault_pc (s : State) (c : FaultCause) (op info : Word) :
    SameBut [.latch, .tickResult] s (s.takeFault c s.pc op info) := by
  intro p hp
  by_cases hpc : p = .pc
  · rw [hpc]; rfl
  · exact SameBut.takeFault s c s.pc op info p (by simpa [hpc] using hp)

/-- A meaning that leaves a RUNNING core FAULTED is an instruction's, and has taken its fault. -/
theorem execDecoded_faults {d : Decoded} {s t : State} (hrun : s.fault.valid = false)
    (ht : execDecoded d s = .next t) (hfault : t.fault.valid = true) :
    ∃ i c info, d = .instr i ∧ c ≠ .pcOutOfRange
      ∧ t = s.takeFault c (s.pc - 2) (encode i) info := by
  cases d with
  | unknown op =>
    cases ht
    simp [hrun] at hfault
  | instr i =>
    obtain ⟨u, hu, ⟨hkeep, -⟩ | ⟨c, info, hc, htaken⟩⟩ := exec_next i s
    all_goals cases ht.symm.trans hu
    · simp [hkeep, hrun] at hfault
    · exact ⟨i, c, info, rfl, hc, htaken⟩

/-- A Tick that leaves a RUNNING core FAULTED is fault entry in the state it started from, with the
fetched word, or with 0 where the fetch itself faulted. -/
theorem tick_faults {s t : State} (hrun : s.fault.valid = false) (ht : tick s = .next t)
    (hfault : t.fault.valid = true) :
    ∃ c info, t = s.takeFault c s.pc (if c = .pcOutOfRange then 0 else s.fetchWord) info := by
  rcases tick_cases s with ⟨hv, -⟩ | ⟨-, -, hrange⟩ | ⟨-, -, -, hodd⟩ | ⟨-, -, -, hfetch⟩
  · simp [hrun] at hv
  · rw [hrange] at ht
    cases ht
    exact ⟨.pcOutOfRange, s.pc, by rw [if_pos rfl]⟩
  · rw [hodd] at ht
    cases ht
  · rw [hfetch] at ht
    obtain ⟨i, c, info, hdecode, hc, htaken⟩ := execDecoded_faults (s := s.afterFetch) hrun ht hfault
    refine ⟨c, info, ?_⟩
    rw [htaken, State.takeFault_afterFetch, encode_of_decodeWord hdecode, State.afterFetch_pc,
      BitVec.add_sub_cancel, if_neg hc]

/-! ### Timer60 (R180) -/

theorem toNat_countDown (t : Byte) : (countDown t).toNat = t.toNat - 1 := by
  unfold countDown
  split
  · have hone : (1 : Byte) ≤ t := by rw [BitVec.le_def]; simpa
    rw [BitVec.toNat_sub_of_le hone]
    rfl
  · omega

/-! ### The results of a Tick and of a Load -/

theorem SameBut.setTickResult (s : State) (r : TickResult) :
    SameBut [.tickResult] s { s with tickResult := r } := by
  intro p hp
  cases p
  case tickResult => simp at hp
  case regs => exact fun _ => rfl
  case memory => exact fun _ => rfl
  case stack => exact ⟨rfl, rfl⟩
  all_goals rfl

theorem SameBut.setLoadResult (s : State) (r : LoadResult) :
    SameBut [.loadResult] s { s with loadResult := r } := by
  intro p hp
  cases p
  case loadResult => simp at hp
  case regs => exact fun _ => rfl
  case memory => exact fun _ => rfl
  case stack => exact ⟨rfl, rfl⟩
  all_goals rfl

/-! ### The two outcomes of Load (R185, D28) -/

theorem applyEvent_load_of_fits (s : State) {rom : List Byte} (h : rom.length ≤ 3584) :
    applyEvent (.load rom) s
      = .next { (s.writeBytes 0x200 rom).setPc 0x200 with loadResult := .ok } :=
  congrArg Host.Outcome.next (if_neg (Nat.not_lt.2 h))

theorem applyEvent_load_of_tooLarge (s : State) {rom : List Byte} (h : 3584 < rom.length) :
    applyEvent (.load rom) s = .next { s with loadResult := .loadTooLarge } :=
  congrArg Host.Outcome.next (if_pos h)

/-! ### The statements -/

/-- Settles O37: a Tick that faults is fault entry at the `pc` it started from, with the word it
fetched. -/
theorem faultingTickCommitsNothing : Obligations.FaultingTickCommitsNothing := by
  intro s t hrun ht hfault
  obtain ⟨c, info, rfl⟩ := tick_faults hrun ht hfault
  refine ⟨SameBut.takeFault_pc s c _ info, rfl, ?opcode, rfl, c.code_bounds⟩
  case opcode => simp only [State.takeFault_fault, c.code_eq_four_iff, State.fetchWord]

/-- Settles O42, by the two outcomes of Load: the ROM fits from 0x200 on, or it does not. -/
theorem loadCopiesRomOrRejects : Obligations.LoadCopiesRomOrRejects := by
  intro s rom hwf
  refine ⟨fun hfits => ?copies, fun hlarge => ?rejects⟩
  case copies =>
    refine ⟨_, applyEvent_load_of_fits s hfits, rfl, rfl, fun k hk => ?copied,
      MemorySameOutside.writeBytes hwf 0x200 rfl, ?frame⟩
    case copied =>
      have hbyte : rom[k]? = some rom[k] := List.getElem?_eq_getElem hk
      exact hbyte.trans
        (congrArg some (State.readByte_writeBytes_of_getElem? hwf 0x200 hbyte).symm)
    case frame =>
      exact (((SameBut.writeBytes s 0x200 rom).trans (SameBut.setPc _ 0x200)).trans
        (SameBut.setLoadResult _ .ok)).mono (by simp)
  case rejects =>
    exact ⟨_, applyEvent_load_of_tooLarge s hlarge, rfl, SameBut.setLoadResult s _⟩

/-- Settles O40: each timer is one count lower, and a count stops at 0. -/
theorem timer60CountsBothDown : Obligations.Timer60CountsBothDown := fun s =>
  ⟨s.timer60, rfl, toNat_countDown s.dt, toNat_countDown s.st, SameBut.timer60 s⟩

/-- Settles O43: KeySet is one write of the keypad, RedrawAck one of `redraw`. -/
theorem hostEventsWriteTheirOneField : Obligations.HostEventsWriteTheirOneField := by
  refine ⟨fun s k b => ⟨s.keySet k b, rfl, ?written, fun j hj => ?kept, SameBut.keySet s k b⟩,
    fun s => ⟨s.redrawAck, rfl, rfl, SameBut.redrawAck s⟩⟩
  case written => exact Vector.getElem_set_self k.isLt
  case kept => exact Vector.getElem_set_ne k.isLt j.isLt fun e => hj (Fin.ext e.symm)

/-- Settles O35: a Tick of a FAULTED core answers its fault, and the other events do what they do in
every state, with the latch in their frame. -/
theorem faultedCoreHaltsButEventsAct : Obligations.FaultedCoreHaltsButEventsAct := by
  intro s hfault
  obtain ⟨hkey, hack⟩ := hostEventsWriteTheirOneField
  refine ⟨⟨_, tick_faulted hfault, rfl, SameBut.setTickResult s _⟩, ?timer60, fun k b => ?keySet,
    ?redrawAck, fun rom hwf hfits => ?load⟩
  case timer60 =>
    obtain ⟨t, ht, hdt, hst, hframe⟩ := timer60CountsBothDown s
    exact ⟨t, ht, hframe .latch (by simp), hdt, hst⟩
  case keySet =>
    obtain ⟨t, ht, hset, -, hframe⟩ := hkey s k b
    exact ⟨t, ht, hframe .latch (by simp), hset⟩
  case redrawAck =>
    obtain ⟨t, ht, hclear, hframe⟩ := hack s
    exact ⟨t, ht, hframe .latch (by simp), hclear⟩
  case load =>
    obtain ⟨t, ht, hpc, -, hrom, -, hframe⟩ := (loadCopiesRomOrRejects s rom hwf).1 hfits
    exact ⟨t, ht, hframe .latch (by simp), hpc, hrom⟩

end Sys2Proof.Machine
end

section
/-!
The decoder and the encoder against each other (30_encoding.md R64 to R66): the round trip in both
directions, and the words that are no instruction of the map or SYS.
-/

namespace Sys2Proof

theorem decodeWord_encXNN_rnd (x : Nibble) (nn : Byte) :
    decodeWord (encXNN 0xC x nn) = .instr (.rnd x nn) := by
  simp [decodeWord, fieldClass_encXNN, fieldX_encXNN, fieldNN_encXNN]

/-! ### The round trip -/

/-- Settles O2, by the decoding of each format of word. -/
theorem encodedInstructionDecodesBack : Obligations.EncodedInstructionDecodesBack := by
  intro i hwf
  cases i
  case cls | ret => decide
  case jp nnn => exact decodeWord_encNNN_jp nnn
  case call nnn => exact decodeWord_encNNN_call nnn
  case ldI nnn => exact decodeWord_encNNN_ldI nnn
  case jpV0 nnn => exact decodeWord_encNNN_jpV0 nnn
  case sys nnn =>
    obtain ⟨hcls, hret⟩ : nnn ≠ 0x0E0 ∧ nnn ≠ 0x0EE := by simpa [Instr.wellFormed] using hwf
    exact decodeWord_encNNN_sys hcls hret
  case seImm x nn => exact decodeWord_encXNN_seImm x nn
  case sneImm x nn => exact decodeWord_encXNN_sneImm x nn
  case ldImm x nn => exact decodeWord_encXNN_ldImm x nn
  case addImm x nn => exact decodeWord_encXNN_addImm x nn
  case rnd x nn => exact decodeWord_encXNN_rnd x nn
  case skp x => exact decodeWord_encXNN_skp x
  case sknp x => exact decodeWord_encXNN_sknp x
  case seReg x y => exact decodeWord_encXYN_seReg x y
  case sneReg x y => exact decodeWord_encXYN_sneReg x y
  case drw x y n => exact decodeWord_encXYN_drw x y n
  case ldReg | orReg | andReg | xorReg | addReg | sub | shr | subn | shl =>
    exact decodeWord_encXYN_of_mem_class8Rows (by simp [class8Rows])
  case ldVxDt | ldVxK | ldDtVx | ldStVx | addI | ldF | ldB | storeRegs | loadRegs =>
    exact decodeWord_encXNN_of_mem_classFRows (by simp [classFRows])

/-- The words of CLS and RET decode to no SYS. -/
theorem wellFormed_of_decodeWord {op : Word} {i : Instr} (h : decodeWord op = .instr i) :
    i.wellFormed = true := by
  cases i
  case sys nnn =>
    have hword : decodeWord (encNNN 0x0 nnn) = .instr (.sys nnn) :=
      (congrArg decodeWord (encode_of_decodeWord h)).trans h
    have hne {k : Addr12} (hk : decodeWord (encNNN 0x0 k) ≠ .instr (.sys k)) : nnn ≠ k := by
      rintro rfl
      exact hk hword
    simp [Instr.wellFormed, hne (k := 0x0E0#12) (by decide), hne (k := 0x0EE#12) (by decide)]
  all_goals rfl

/-- Settles O3: the encoding is the word decoded, and only SYS could be ill-formed. -/
theorem decodedWordIsTheEncoding : Obligations.DecodedWordIsTheEncoding := fun _ _ h =>
  ⟨wellFormed_of_decodeWord h, encode_of_decodeWord h⟩

/-- Settles O1, by evaluation of the decoder on each word. -/
theorem sampleWordsDecode : Obligations.SampleWordsDecode := by
  unfold Obligations.SampleWordsDecode
  decide

/-! ### The unknown space (R66) -/

/-- The word is unknown, or SYS. -/
def Decoded.IsSpare (op : Word) (d : Decoded) : Prop :=
  d = .unknown op ∨ ∃ nnn, d = .instr (.sys nnn)

@[simp] theorem Decoded.isSpare_unknown (op : Word) : (Decoded.unknown op).IsSpare op := .inl rfl

@[simp] theorem Decoded.isSpare_instr (op : Word) (i : Instr) :
    (Decoded.instr i).IsSpare op ↔ ∃ nnn, i = .sys nnn := by
  simp [Decoded.IsSpare]

section classes
variable {op : Word}

theorem isSpare_decodeClass0 (hc : fieldClass op = 0x0) :
    (decodeClass0 op).IsSpare op ↔ fieldNNN op ≠ 0x0E0 ∧ fieldNNN op ≠ 0x0EE := by
  have hword (k : Addr12) : op = encNNN 0x0 k ↔ fieldNNN op = k := by
    refine ⟨fun h => h ▸ fieldNNN_encNNN 0x0 k, ?_⟩
    rintro rfl
    rw [← hc, encNNN_fields]
  have hcls : op = 0x00E0#16 ↔ fieldNNN op = 0x0E0 := hword 0x0E0
  have hret : op = 0x00EE#16 ↔ fieldNNN op = 0x0EE := hword 0x0EE
  unfold decodeClass0
  split
  · next h => simp [hcls.1 h]
  · next h =>
    rw [hcls] at h
    split
    · next h' => simp [hret.1 h']
    · next h' =>
      rw [hret] at h'
      simpa using ⟨h, h'⟩

theorem isSpare_decodeClass8 :
    (decodeClass8 op).IsSpare op ↔
      fieldN op ∈ [0x8#4, 0x9#4, 0xA#4, 0xB#4, 0xC#4, 0xD#4, 0xF#4] := by
  have hmem : ∀ n : Nibble, n ∈ [0x8#4, 0x9#4, 0xA#4, 0xB#4, 0xC#4, 0xD#4, 0xF#4] ↔
      7 < n.toNat ∧ n.toNat ≠ 0xE := by decide
  rw [hmem]
  unfold decodeClass8
  split
  case h_10 => simp only [Decoded.isSpare_unknown, imp_false, true_iff] at *; omega
  all_goals next hn => simp [hn]

theorem isSpare_decodeClassE :
    (decodeClassE op).IsSpare op ↔ fieldNN op ∉ [0x9E#8, 0xA1#8] := by
  simp only [List.mem_cons, List.not_mem_nil, or_false, ← BitVec.toNat_inj, BitVec.toNat_ofNat]
  unfold decodeClassE
  split
  case h_3 => simp_all
  all_goals next hnn => simp [hnn]

theorem isSpare_decodeClassF :
    (decodeClassF op).IsSpare op ↔ fieldNN op ∉
      [0x07#8, 0x0A#8, 0x15#8, 0x18#8, 0x1E#8, 0x29#8, 0x33#8, 0x55#8, 0x65#8] := by
  simp only [List.mem_cons, List.not_mem_nil, or_false, ← BitVec.toNat_inj, BitVec.toNat_ofNat]
  unfold decodeClassF
  split
  case h_10 => simp_all
  all_goals next hnn => simp [hnn]

/-- Classes 5 and 9 hold one instruction, of minor opcode 0. -/
theorem isSpare_of_minorZero {n : Nibble} {i : Instr} (hi : ∀ nnn, i ≠ .sys nnn) :
    (if n = 0 then Decoded.instr i else .unknown op).IsSpare op ↔ n ≠ 0 := by
  split
  · next h => simp [h, hi]
  · next h => simpa using h

end classes

/-- Settles O4, class by class: the classes with a table of their own, the two whose minor opcode is
`N = 0`, and those in which every word is an instruction. -/
theorem unknownSpaceIsExact : Obligations.UnknownSpaceIsExact := by
  intro op
  have hclass {c : Nibble} (h : (fieldClass op).toNat = c.toNat) : fieldClass op = c :=
    BitVec.eq_of_toNat_eq h
  change (decodeWord op).IsSpare op ↔ _
  simp only [decodeWord]
  split
  case h_1 hc =>
    have hc := hclass (c := 0x0) hc
    simpa [hc] using isSpare_decodeClass0 hc
  case h_6 hc =>
    rw [isSpare_of_minorZero (by simp)]
    simp [hclass (c := 0x5) hc]
  case h_10 hc =>
    rw [isSpare_of_minorZero (by simp)]
    simp [hclass (c := 0x9) hc]
  case h_9 hc =>
    rw [isSpare_decodeClass8]
    simp [hclass (c := 0x8) hc]
  case h_15 hc =>
    rw [isSpare_decodeClassE]
    simp [hclass (c := 0xE) hc]
  case h_16 =>
    have hc : (fieldClass op).toNat = 0xF := by
      have := (fieldClass op).isLt
      simp only [imp_false] at *
      omega
    rw [isSpare_decodeClassF]
    simp [hclass (c := 0xF) hc]
  all_goals
    next hc =>
    simp [← BitVec.toNat_inj, hc]

end Sys2Proof
end

section
/-!
What an instruction can do, once for all 35 (10_state.md R10 to R21, 60_exceptions.md R160 to
R163): it completes, and then writes its own parts of the state only, or it raises a fault for one
of the reasons listed here.
-/

namespace Sys2Proof

open Machine

/-! ### What an instruction may write -/

/-- The parts of the state that an instruction may write where it takes no fault. -/
def Instr.writes : Instr → List Part
  | .cls => [.display, .redraw]
  | .ret | .call _ => [.pc, .stack]
  | .jp _ | .jpV0 _ => [.pc]
  | .seImm _ _ | .sneImm _ _ | .seReg _ _ | .sneReg _ _ | .skp _ | .sknp _ => [.pc]
  | .ldImm _ _ | .addImm _ _ | .ldReg _ _ | .orReg _ _ | .andReg _ _ | .xorReg _ _ => [.regs]
  | .addReg _ _ | .sub _ _ | .shr _ _ | .subn _ _ | .shl _ _ => [.regs]
  | .rnd _ _ => [.regs, .draws]
  | .drw _ _ _ => [.regs, .display, .redraw]
  | .ldVxDt _ => [.regs]
  | .ldVxK _ => [.regs, .pc]
  | .ldDtVx _ => [.delayTimer]
  | .ldStVx _ => [.soundTimer]
  | .ldI _ | .addI _ | .ldF _ => [.index]
  | .ldB _ => [.memory]
  | .storeRegs _ => [.memory, .index]
  | .loadRegs _ => [.regs, .index]
  | .sys _ => [.tickResult]

/-- The destination registers of an instruction (10_state.md R10, R11). -/
def Instr.WritesReg : Instr → Nibble → Prop
  | .ldImm x _, r | .addImm x _, r | .rnd x _, r => r = x
  | .ldReg x _, r | .orReg x _, r | .andReg x _, r | .xorReg x _, r => r = x
  | .addReg x _, r | .sub x _, r | .shr x _, r | .subn x _, r | .shl x _, r => r = x ∨ r = vf
  | .drw _ _ _, r => r = vf
  | .ldVxDt x, r | .ldVxK x, r => r = x
  | .loadRegs x, r => r.toNat ≤ x.toNat
  | _, _ => False

/-- The target of a jump or a call (40_control_jump_call.md R82 to R84). -/
def Instr.target (s : State) : Instr → Option Word
  | .jp nnn | .call nnn => some (zextAddr nnn)
  | .jpV0 nnn => some (s.jumpOffsetTarget nnn)
  | _ => none

/-- The length and the kind of the access from `I` on that an instruction makes. -/
def Instr.access : Instr → Option (Nat × AccessKind)
  | .drw _ _ n => some (n.toNat, .read)
  | .ldB _ => some (3, .write)
  | .storeRegs x => some (x.toNat + 1, .write)
  | .loadRegs x => some (x.toNat + 1, .read)
  | _ => none

end Sys2Proof

namespace Sys2Proof.Machine

/-! ### The two outcomes -/

/-- Where an instruction that sees `s` can leave `pc`. -/
inductive Flow (i : Instr) (s : State) : Word → Prop
  | stays : Flow i s s.pc
  | skips : Flow i s (s.pc + 2)
  | waits : Flow i s (s.pc - 2)
  | jumps {t : Word} (ht : i.target s = some t) (heven : misaligned t = false) : Flow i s t
  | returns (k : Fin 16) (hk : s.sp.val = k.val + 1) : Flow i s s.stack[k]

/-- `t` is `s` after a store, of no byte or more, that lies in memory and off the font. -/
def Stores (s t : State) : Prop :=
  ∃ (a : Nat) (bs : List Byte), a + bs.length ≤ 0x1000 ∧ (0x09F < a ∨ a + bs.length ≤ 0x050)
    ∧ t.mem = (s.writeBytes a bs).mem

/-- What an instruction that sees `s` and takes no fault leaves. Of the stack, each live slot was
live before or holds the return address. -/
structure Completed (i : Instr) (s t : State) : Prop where
  frame : SameBut i.writes s t
  regs : ∀ r, ¬ i.WritesReg r → t.getV r = s.getV r
  flow : Flow i s t.pc
  live : ∀ k : Fin 16, k.val < t.sp.val →
    t.stack[k] = s.pc ∨ k.val < s.sp.val ∧ t.stack[k] = s.stack[k]
  stores : Stores s t

/-- The faults of the instructions, each with its condition and its info (60_exceptions.md R160);
the sixth cause is the fetch's. -/
inductive Raises (s : State) : Instr → FaultCause → Word → Prop
  | underflow (hsp : s.sp.val = 0) : Raises s .ret .stackUnderflow 0
  | overflow (nnn : Addr12) (hsp : s.sp.val = 16) :
      Raises s (.call nnn) .stackOverflow (zextAddr nnn)
  | target {i : Instr} {t : Word} (ht : i.target s = some t) (hodd : misaligned t = true) :
      Raises s i .pcMisaligned t
  | range {i : Instr} {n : Nat} {k : AccessKind} {c : FaultCause} {w : Word}
      (ha : i.access = some (n, k)) (hc : s.checkRange n k = some (c, w)) : Raises s i c w

/-- The answer of an instruction that sees `s`: a next state, completed or with a fault taken. -/
def Concludes (i : Instr) (s : State) (a : Answer) : Prop :=
  ∃ t, a = .next t ∧ (Completed i s t ∨
    ∃ c w, Raises s i c w ∧ t = s.takeFault c (s.pc - 2) (encode i) w)

/-! ### The outcome of each shared operation -/

theorem SameBut.setDraws (s : State) (n : Nat) : SameBut [.draws] s { s with draws := n } := by
  intro p hp
  cases p
  case draws => simp at hp
  case regs => exact fun _ => rfl
  case memory => exact fun _ => rfl
  case stack => exact ⟨rfl, rfl⟩
  all_goals rfl

section concludes
variable {i : Instr} {s t : State}

theorem Concludes.completed (h : Completed i s t) : Concludes i s (.next t) := ⟨t, rfl, .inl h⟩

theorem Concludes.faults {c : FaultCause} {w : Word} (h : Raises s i c w) :
    Concludes i s (raise c (encode i) w s) := ⟨_, rfl, .inr ⟨c, w, h, rfl⟩⟩

theorem Stores.of_mem_eq (h : t.mem = s.mem) : Stores s t := ⟨0, [], by simp, by simp, h⟩

/-- A store of the bytes that the range check let pass. -/
theorem Stores.of_checkRange {bs : List Byte} (hc : s.checkRange bs.length .write = none)
    (ht : t.mem = (s.writeBytes s.i.toNat bs).mem) : Stores s t := by
  rcases (s.checkRange_eq_none _ _).1 hc with h0 | ⟨hend, hfont⟩
  · obtain rfl := List.length_eq_zero_iff.1 h0
    exact .of_mem_eq ht
  · exact ⟨_, bs, hend, hfont rfl, ht⟩

/-- An instruction that leaves the stack and memory alone. -/
theorem Completed.of_kept (hframe : SameBut i.writes s t)
    (hregs : ∀ r, ¬ i.WritesReg r → t.getV r = s.getV r) (hflow : Flow i s t.pc)
    (hsp : t.sp = s.sp) (hstack : t.stack = s.stack) (hmem : t.mem = s.mem) : Completed i s t :=
  ⟨hframe, hregs, hflow, fun k hk => .inr ⟨hsp ▸ hk, by rw [hstack]⟩, .of_mem_eq hmem⟩

theorem Concludes.setV {x : Nibble} {b : Byte} (hw : .regs ∈ i.writes) (hx : i.WritesReg x) :
    Concludes i s (.next (s.setV x b)) :=
  .completed <| .of_kept ((SameBut.setV s x b).mono (by simpa using hw))
    (fun _ hr => s.getV_setV_ne b fun e => hr (e ▸ hx)) .stays rfl rfl rfl

theorem Concludes.setResultFlag {x : Nibble} {r f : Byte} (hw : .regs ∈ i.writes)
    (hx : i.WritesReg x) (hvf : i.WritesReg vf) :
    Concludes i s (.next (s.setResultFlag x r f)) :=
  .completed <| .of_kept ((SameBut.setResultFlag s x r f).mono (by simpa using hw))
    (fun q hq => by
      have hqx : q ≠ x := fun e => hq (e ▸ hx)
      have hqf : q ≠ vf := fun e => hq (e ▸ hvf)
      rw [State.getV_setResultFlag, if_neg hqf, if_neg hqx])
    .stays rfl rfl rfl

theorem Concludes.setI {w : Word} (hw : .index ∈ i.writes) : Concludes i s (.next (s.setI w)) :=
  .completed <| .of_kept ((SameBut.setI s w).mono (by simpa using hw)) (fun _ _ => rfl) .stays
    rfl rfl rfl

theorem Concludes.setPc {w : Word} (hw : .pc ∈ i.writes) (hflow : Flow i s w) :
    Concludes i s (.next (s.setPc w)) :=
  .completed <| .of_kept ((SameBut.setPc s w).mono (by simpa using hw)) (fun _ _ => rfl) hflow
    rfl rfl rfl

theorem Concludes.skipIf {c : Bool} (hw : .pc ∈ i.writes) : Concludes i s (skipIf c s) := by
  rw [skipIf_eq]
  cases c
  · exact .setPc hw .stays
  · exact .setPc hw .skips

theorem Concludes.jumpTo {w : Word} (hw : .pc ∈ i.writes) (ht : i.target s = some w) :
    Concludes i s (jumpTo (encode i) w s) := by
  rcases jumpTo_cases (encode i) w s with ⟨heven, h⟩ | ⟨hodd, h⟩ <;> rw [h]
  · exact .setPc hw (.jumps ht heven)
  · exact .faults (.target ht hodd)

theorem Concludes.afterCheck {n : Nat} {k : AccessKind} {f : State} (ha : i.access = some (n, k))
    (hf : s.checkRange n k = none → Completed i s f) : Concludes i s (s.afterCheck n k i f) := by
  unfold State.afterCheck
  split
  · next hc => exact .faults (.range ha hc)
  · next hc => exact .completed (hf hc)

end concludes

/-- What an instruction keeps where it takes no fault. -/
theorem Completed.keepsEventState {i : Instr} {s t : State} (h : Completed i s t) :
    KeepsEventState s t := by
  have hkept : .latch ∉ i.writes ∧ .config ∉ i.writes ∧ .keypad ∉ i.writes
      ∧ .loadResult ∉ i.writes ∧ .pending ∉ i.writes := by cases i <;> simp [Instr.writes]
  obtain ⟨hlatch, hconfig, hkeypad, hload, hpending⟩ := hkept
  exact ⟨h.frame .latch hlatch, h.frame .config hconfig, h.frame .keypad hkeypad,
    h.frame .loadResult hload, h.frame .pending hpending⟩

/-! ### The outcome of each instruction -/

theorem State.mem_of_pop {s t : State} (h : s.pop = some t) : t.mem = s.mem := by
  unfold State.pop at h
  split at h <;> cases h
  rfl

theorem State.mem_of_push {s t : State} (h : s.push = some t) : t.mem = s.mem := by
  unfold State.push at h
  split at h <;> cases h
  rfl

theorem concludes_ret (s : State) : Concludes .ret s (execRet s) := by
  by_cases hsp : s.sp.val = 0
  · exact execRet_of_empty hsp ▸ .faults (.underflow hsp)
  · have hk : s.sp.val = (⟨s.sp.val - 1, by omega⟩ : Fin 16).val + 1 := by simp; omega
    obtain ⟨t, ht, hsp', hpc, hstack, hframe⟩ := State.pop_of_entry hk
    rw [execRet_of_entry ht]
    exact .completed ⟨hframe, fun r _ => hframe .regs (by simp) r, hpc ▸ .returns _ hk,
      fun k hlt => .inr ⟨by omega, by rw [hstack]⟩, .of_mem_eq (State.mem_of_pop ht)⟩

theorem concludes_call (nnn : Addr12) (s : State) : Concludes (.call nnn) s (execCall nnn s) := by
  rcases Nat.mod_two_eq_zero_or_one nnn.toNat with heven | hodd
  · by_cases hsp : s.sp.val = 16
    · exact execCall_of_full heven hsp ▸ .faults (.overflow nnn hsp)
    · obtain ⟨t, ht, hsp', htop, hrest, hframe⟩ :=
        State.push_of_room (k := ⟨s.sp.val, by omega⟩) (s := s) rfl
      rw [execCall_of_room heven ht]
      refine .completed ⟨(hframe.trans (SameBut.setPc t _)).mono (by simp [Instr.writes]),
        fun r _ => hframe .regs (by simp) r, .jumps rfl (misaligned_of_even (by simpa)),
        fun k hlt => ?live, .of_mem_eq (State.mem_of_push ht :)⟩
      case live =>
        by_cases hk : k = ⟨s.sp.val, by omega⟩
        · exact .inl (hk ▸ htop)
        · have hne : k.val ≠ s.sp.val := fun e => hk (Fin.ext e)
          have hle : k.val < s.sp.val + 1 := hsp' ▸ hlt
          exact .inr ⟨by omega, hrest k hk⟩
  · exact execCall_of_odd s hodd ▸ .faults (.target rfl (misaligned_of_odd (by simpa)))

theorem concludes_ldVxK (x : Nibble) (s : State) : Concludes (.ldVxK x) s (execLdVxK x s) := by
  unfold execLdVxK
  split
  · exact .setPc (by simp [Instr.writes]) .waits
  · exact .setV (by simp [Instr.writes]) rfl

theorem exec_drw (x y n : Nibble) (s : State) :
    exec (.drw x y n) s = s.afterCheck n.toNat .read (.drw x y n) (s.afterDraw x y n) := rfl

theorem concludes_drw (x y n : Nibble) (s : State) :
    Concludes (.drw x y n) s (exec (.drw x y n) s) := by
  rw [exec_drw]
  exact .afterCheck rfl fun _ => .of_kept
    (((SameBut.display s _).trans (SameBut.setV _ vf _)).mono (by simp [Instr.writes]))
    (fun _ hr => State.getV_setV_ne (s.display _) _ hr) .stays rfl rfl rfl

theorem concludes_ldB (x : Nibble) (s : State) : Concludes (.ldB x) s (exec (.ldB x) s) := by
  rw [exec_ldB]
  exact .afterCheck rfl fun hc => ⟨SameBut.writeBytes s _ _, fun r _ => s.getV_writeBytes _ _ r,
    by simpa using Flow.stays, fun k hk => .inr (by simpa using hk),
    .of_checkRange (bs := bcdDigits (s.getV x)) hc rfl⟩

theorem concludes_storeRegs (x : Nibble) (s : State) :
    Concludes (.storeRegs x) s (exec (.storeRegs x) s) := by
  rw [exec_storeRegs]
  exact .afterCheck rfl fun hc => ⟨(SameBut.writeBytes s _ _).trans (SameBut.setI _ _),
    fun r _ => s.getV_writeBytes _ _ r, by simpa using Flow.stays,
    fun k hk => .inr (by simpa using hk), .of_checkRange (by simpa using hc) rfl⟩

theorem concludes_loadRegs (x : Nibble) (s : State) :
    Concludes (.loadRegs x) s (exec (.loadRegs x) s) := by
  have hx := x.isLt
  have hlen : (s.readBytes s.i.toNat (x.toNat + 1)).length = x.toNat + 1 := s.length_readBytes _ _
  rw [exec_loadRegs]
  refine .afterCheck rfl fun _ => .of_kept ((SameBut.setRegs s _ _).trans (SameBut.setI _ _))
    (fun r hr => s.getV_setRegs_of_length_le (by omega) ?above) (by simpa using Flow.stays)
    (by simp) (by simp) (by simp)
  case above =>
    have hr : ¬ r.toNat ≤ x.toNat := hr
    omega

/-- Every instruction answers a next state, from every state: it completes or it takes a fault. -/
theorem exec_concludes (i : Instr) (s : State) : Concludes i s (exec i s) := by
  cases i
  case cls => exact .completed (.of_kept (SameBut.display s _) (fun _ _ => rfl) .stays rfl rfl rfl)
  case ret => exact concludes_ret s
  case call nnn => exact concludes_call nnn s
  case jp | jpV0 => exact .jumpTo (by simp [Instr.writes]) rfl
  case seImm | sneImm | seReg | sneReg | skp | sknp => exact .skipIf (by simp [Instr.writes])
  case ldImm | addImm | ldReg | orReg | andReg | xorReg | ldVxDt =>
    exact .setV (by simp [Instr.writes]) rfl
  case addReg | sub | shr | subn | shl =>
    exact .setResultFlag (by simp [Instr.writes]) (.inl rfl) (.inr rfl)
  case ldI | addI | ldF => exact .setI (by simp [Instr.writes])
  case rnd x nn =>
    exact .completed <| .of_kept ((SameBut.setV s x _).trans (SameBut.setDraws _ _))
      (fun _ hr => s.getV_setV_ne _ hr) .stays rfl rfl rfl
  case drw x y n => exact concludes_drw x y n s
  case ldVxK x => exact concludes_ldVxK x s
  case ldDtVx x =>
    exact .completed (.of_kept (SameBut.setDelayTimer s _) (fun _ _ => rfl) .stays rfl rfl rfl)
  case ldStVx x =>
    exact .completed (.of_kept (SameBut.setSoundTimer s _) (fun _ _ => rfl) .stays rfl rfl rfl)
  case ldB x => exact concludes_ldB x s
  case storeRegs x => exact concludes_storeRegs x s
  case loadRegs x => exact concludes_loadRegs x s
  case sys nnn =>
    exact .completed (.of_kept (SameBut.diag s _) (fun _ _ => rfl) .stays rfl rfl rfl)

/-- The same, about the next state answered. -/
theorem exec_cases {i : Instr} {s t : State} (h : exec i s = .next t) :
    Completed i s t ∨ ∃ c w, Raises s i c w ∧ t = s.takeFault c (s.pc - 2) (encode i) w := by
  obtain ⟨u, hu, hcases⟩ := exec_concludes i s
  cases h.symm.trans hu
  exact hcases

end Sys2Proof.Machine
end

section
/-!
The invariant of the machine (10_state.md R22), part by part: what a store in memory and off the
font keeps, and what every event keeps.
-/

namespace Sys2Proof.Machine

/-! ### What a store keeps (20_memory.md R41 to R44) -/

/-- What `writeBytes` makes of memory depends on memory and the configuration alone. -/
theorem State.writeBytes_mem_congr (bs : List Byte) {s t : State} (a : Nat) (hm : t.mem = s.mem)
    (hc : t.cfg = s.cfg) : (t.writeBytes a bs).mem = (s.writeBytes a bs).mem := by
  induction bs generalizing s t a with
  | nil => exact hm
  | cons b bs ih => exact ih (a + 1) (by simp [hm, hc]) hc

section stores
variable {s t : State} (h : Stores s t)
include h

/-- A store seen from a state with the same memory. -/
theorem Stores.of_same {u : State} (hm : s.mem = u.mem) (hc : s.cfg = u.cfg) : Stores u t := by
  obtain ⟨a, bs, hend, hfont, ht⟩ := h
  exact ⟨a, bs, hend, hfont, ht.trans (State.writeBytes_mem_congr bs a hm hc)⟩

theorem Stores.memWf (hc : t.cfg = s.cfg) (hwf : s.MemWf) : t.MemWf := by
  obtain ⟨a, bs, -, -, ht⟩ := h
  unfold State.MemWf
  rw [hc, ht, ← s.writeBytes_cfg a bs]
  exact State.memWf_writeBytes bs a hwf

theorem Stores.addresses (hs : ∀ c ∈ s.mem, c.1 ≤ maxAddr) : ∀ c ∈ t.mem, c.1 ≤ maxAddr := by
  obtain ⟨a, bs, hend, -, ht⟩ := h
  intro c hmem
  rcases State.mem_writeBytes bs (ht ▸ hmem) with hold | hnew
  · exact hs c hold
  · unfold maxAddr
    omega

theorem Stores.font (hc : t.cfg = s.cfg) (hwf : s.MemWf) {a : Nat} (hlow : 0x050 ≤ a)
    (hhigh : a ≤ 0x09F) : t.readByte a = s.readByte a := by
  obtain ⟨b, bs, -, hfont, ht⟩ := h
  rw [State.readByte_congr ht (hc.trans (s.writeBytes_cfg b bs).symm),
    State.readByte_writeBytes_outside hwf b a bs (by omega)]

end stores

/-! ### What an instruction and an event do to memory -/

theorem exec_stores {i : Instr} {s t : State} (h : exec i s = .next t) :
    t.cfg = s.cfg ∧ Stores s t := by
  rcases exec_cases h with hdone | ⟨c, w, -, rfl⟩
  · obtain ⟨-, hcfg, -⟩ := hdone.keepsEventState
    exact ⟨hcfg, hdone.stores⟩
  · exact ⟨rfl, .of_mem_eq rfl⟩

theorem tick_stores {s t : State} (h : tick s = .next t) : t.cfg = s.cfg ∧ Stores s t := by
  rcases tick_cases s with ⟨-, ht⟩ | ⟨-, -, ht⟩ | ⟨-, -, -, ht⟩ | ⟨-, -, -, ht⟩ <;> rw [ht] at h
  · cases h
    exact ⟨rfl, .of_mem_eq rfl⟩
  · cases h
    exact ⟨rfl, .of_mem_eq rfl⟩
  · cases h
  · cases hd : decodeWord s.fetchWord <;> rw [hd] at h
    case instr i =>
      obtain ⟨hcfg, hstores⟩ := exec_stores (s := s.afterFetch) h
      exact ⟨hcfg, hstores.of_same rfl rfl⟩
    case unknown op =>
      cases h
      exact ⟨rfl, .of_mem_eq rfl⟩

/-- Every event but Reset does no more to memory than a store off the font. -/
theorem applyEvent_stores {e : Event} {s t : State} (he : e ≠ .reset)
    (h : applyEvent e s = .next t) : t.cfg = s.cfg ∧ Stores s t := by
  cases e
  case reset => exact absurd rfl he
  case tick => exact tick_stores h
  case load rom =>
    rcases Nat.lt_or_ge 3584 rom.length with hlarge | hfits
    · rw [applyEvent_load_of_tooLarge s hlarge] at h
      cases h
      exact ⟨rfl, .of_mem_eq rfl⟩
    · rw [applyEvent_load_of_fits s hfits] at h
      cases h
      exact ⟨by simp, 0x200, rom, by omega, by omega, rfl⟩
  all_goals
    cases h
    exact ⟨rfl, .of_mem_eq rfl⟩

theorem State.memWf_resetEvent (s : State) : s.resetEvent.MemWf := rfl

theorem applyEvent_memWf {e : Event} {s t : State} (hwf : s.MemWf)
    (h : applyEvent e s = .next t) : t.MemWf := by
  by_cases he : e = .reset
  · subst he
    cases h
    exact s.memWf_resetEvent
  · obtain ⟨hcfg, hstores⟩ := applyEvent_stores he h
    exact hstores.memWf hcfg hwf

/-- What every event keeps, whatever the pending events, every step keeps. -/
theorem step_keeps {P : State → Prop} (hpending : ∀ s es, P s → P { s with pending := es })
    (hevent : ∀ {e s t}, P s → applyEvent e s = .next t → P t) {s t : State} (hs : P s)
    (h : step s = .next t) : P t := by
  rcases step_cases s with ⟨-, hstep⟩ | ⟨e, rest, -, hstep⟩ <;> rw [hstep] at h
  · exact hevent (e := .tick) hs h
  · exact hevent (hpending s rest hs) h

/-- Settles O50: a store keeps the canonical form, and Reset empties the memory list. -/
theorem everyStepKeepsMemoryCanonical : Obligations.EveryStepKeepsMemoryCanonical := fun _ _ =>
  step_keeps (P := State.MemWf) (fun _ _ hs => hs) applyEvent_memWf

/-- Settles O51: a store lies off the font, and Reset keeps the configuration. -/
theorem fontAndConfigAreImmutable : Obligations.FontAndConfigAreImmutable := by
  intro e s t hwf h
  by_cases he : e = .reset
  · subst he
    cases h
    exact ⟨rfl, fun hne => absurd rfl hne⟩
  · obtain ⟨hcfg, hstores⟩ := applyEvent_stores he h
    exact ⟨hcfg, fun _ a hlow hhigh => hstores.font hcfg hwf hlow hhigh⟩

/-! ### The invariant by its parts (10_state.md R22) -/

/-- A value of `pc` that the invariant allows. -/
def PcLegal (w : Word) : Prop := misaligned w = false ∧ w.toNat ≤ 0x10FE

/-- A value that a call may push: `pc` after a fetch. -/
def ReturnAddress (w : Word) : Prop :=
  misaligned w = false ∧ 0x202 ≤ w.toNat ∧ w.toNat ≤ 0x1000

/-- The invariant's part about memory. -/
def State.MemOk (s : State) : Prop :=
  s.MemWf ∧ (∀ c ∈ s.mem, c.1 ≤ maxAddr) ∧ ∀ k : Fin 80, s.readByte (0x050 + k.val) = s.cfg.font[k]

theorem State.inv_iff (s : State) :
    s.Inv ↔ PcLegal s.pc ∧ s.StackOk ∧ s.MemOk ∧ s.LatchOk := by
  simp only [State.Inv, PcLegal, State.MemOk, and_assoc]

theorem Stores.memOk {s t : State} (h : Stores s t) (hc : t.cfg = s.cfg) (hs : s.MemOk) :
    t.MemOk := by
  obtain ⟨hwf, haddr, hfont⟩ := hs
  refine ⟨h.memWf hc hwf, h.addresses haddr, fun k => ?_⟩
  rw [h.font hc hwf (by omega) (by omega), hfont k, hc]

theorem resetByte_font (font : Font) (k : Fin 80) : resetByte font (0x050 + k.val) = font[k] := by
  rw [resetByte, dif_pos (by omega)]
  simp

theorem State.memOk_resetEvent (s : State) : s.resetEvent.MemOk :=
  ⟨s.memWf_resetEvent, by simp, resetByte_font s.cfg.font⟩

theorem State.latchOk_takeFault (s : State) (c : FaultCause) (ia op info : Word) :
    (s.takeFault c ia op info).LatchOk :=
  ⟨fun h => Bool.noConfusion h, fun _ => c.code_bounds⟩

theorem State.LatchOk.congr {s t : State} (h : t.fault = s.fault) (hs : s.LatchOk) :
    t.LatchOk := by
  unfold State.LatchOk
  rwa [h]

theorem pcLegal_progBase : PcLegal 0x200 := by
  unfold PcLegal
  decide

/-! ### Where an instruction leaves `pc` and the stack -/

theorem toNat_add_two {w : Word} (h : w.toNat ≤ 0xFFFD) : (w + 2).toNat = w.toNat + 2 := by
  rw [BitVec.toNat_add, show (2 : Word).toNat = 2 from rfl]
  omega

theorem toNat_sub_two {w : Word} (h : 2 ≤ w.toNat) : (w - 2).toNat = w.toNat - 2 := by
  rw [BitVec.toNat_sub, show (2 : Word).toNat = 2 from rfl]
  omega

theorem ReturnAddress.pcLegal {w : Word} (h : ReturnAddress w) : PcLegal w := by
  obtain ⟨heven, -, hhigh⟩ := h
  exact ⟨heven, by omega⟩

/-- The targets are at most 0xFFF + 0xFF (40_control_jump_call.md R84). -/
theorem Instr.target_le {i : Instr} {s : State} {t : Word} (h : i.target s = some t) :
    t.toNat ≤ 0x10FE := by
  have hzext (nnn : Addr12) : (zextAddr nnn).toNat ≤ 0xFFF := by
    have := nnn.isLt
    simp only [toNat_zextAddr]
    omega
  cases i <;> cases h
  case jp nnn | call nnn => exact (hzext nnn).trans (by decide)
  case jpV0 nnn =>
    have hsum (b : Byte) : (zextAddr nnn + b.setWidth 16).toNat ≤ 0x10FE := by
      have hb := b.isLt
      have hn := hzext nnn
      simp only [BitVec.toNat_add, BitVec.toNat_setWidth]
      omega
    exact hsum _

section afterFetch
variable {i : Instr} {s : State} (hpc : ReturnAddress s.pc) (hstack : s.StackOk)
include hpc hstack

theorem Flow.pcLegal {w : Word} (h : Flow i s w) : PcLegal w := by
  have hlegal := hpc.pcLegal
  obtain ⟨heven, hlow, hhigh⟩ := hpc
  rw [misaligned_eq_decide, decide_eq_false_iff_not] at heven
  cases h
  case stays => exact hlegal
  case skips =>
    have hnat := toNat_add_two (w := s.pc) (by omega)
    exact ⟨misaligned_of_even (by omega), by omega⟩
  case waits =>
    have hnat := toNat_sub_two (w := s.pc) (by omega)
    exact ⟨misaligned_of_even (by omega), by omega⟩
  case jumps ht ht' => exact ⟨ht', Instr.target_le ht⟩
  case returns k hk => exact ReturnAddress.pcLegal (hstack k (by omega))

theorem Completed.stackOk {t : State} (h : Completed i s t) : t.StackOk := by
  intro k hk
  rcases h.live k hk with htop | ⟨hlive, hkept⟩
  · exact htop ▸ hpc
  · exact hkept ▸ hstack k hlive

/-- An instruction keeps the invariant; of `pc` it needs what the fetch makes sure of. -/
theorem exec_inv (hmem : s.MemOk) (hlatch : s.LatchOk) {t : State} (h : exec i s = .next t) :
    t.Inv := by
  obtain ⟨hcfg, hstores⟩ := exec_stores h
  rw [State.inv_iff]
  rcases exec_cases h with hdone | ⟨c, w, -, rfl⟩
  · obtain ⟨hkept, -⟩ := hdone.keepsEventState
    exact ⟨hdone.flow.pcLegal hpc hstack, hdone.stackOk hpc hstack, hstores.memOk hcfg hmem,
      hlatch.congr hkept⟩
  · exact ⟨Flow.waits.pcLegal (i := i) hpc hstack, hstack, hmem, s.latchOk_takeFault ..⟩

end afterFetch

/-! ### What keeps the invariant -/

theorem ReturnAddress.afterFetch {s : State} (heven : s.PcEven) (hrange : s.pcOutOfRange = false) :
    ReturnAddress s.afterFetch.pc := by
  obtain ⟨hlow, hhigh⟩ := s.pcOutOfRange_eq_false.1 hrange
  have hnat := toNat_add_two (w := s.pc) (by omega)
  simp only [State.PcEven, misaligned_eq_decide, decide_eq_false_iff_not] at heven
  refine ⟨misaligned_of_even ?_, ?_⟩ <;> simp only [State.afterFetch_pc] <;> omega

theorem tick_inv {s t : State} (hs : s.Inv) (h : tick s = .next t) : t.Inv := by
  obtain ⟨hpc, hstack, hmem, hlatch⟩ := s.inv_iff.1 hs
  rcases tick_cases s with ⟨-, ht⟩ | ⟨-, -, ht⟩ | ⟨-, -, -, ht⟩ | ⟨-, hrange, heven, ht⟩ <;>
    rw [ht] at h
  · cases h
    exact hs
  · cases h
    exact (State.inv_iff _).2 ⟨hpc, hstack, hmem, s.latchOk_takeFault ..⟩
  · cases h
  · have hret := ReturnAddress.afterFetch heven hrange
    cases hd : decodeWord s.fetchWord <;> rw [hd] at h
    case instr i => exact exec_inv hret hstack hmem hlatch h
    case unknown op =>
      cases h
      exact (State.inv_iff _).2 ⟨hret.pcLegal, hstack, hmem, hlatch⟩

theorem State.resetEvent_inv (s : State) : s.resetEvent.Inv :=
  (State.inv_iff _).2 ⟨pcLegal_progBase, fun k hk => absurd hk (Nat.not_lt_zero k.val),
    s.memOk_resetEvent, fun _ => rfl, fun h => Bool.noConfusion h⟩

theorem load_inv {s t : State} {rom : List Byte} (hs : s.Inv)
    (h : applyEvent (.load rom) s = .next t) : t.Inv := by
  obtain ⟨-, hstack, hmem, hlatch⟩ := s.inv_iff.1 hs
  obtain ⟨hcfg, hstores⟩ := applyEvent_stores (by simp) h
  rcases Nat.lt_or_ge 3584 rom.length with hlarge | hfits
  · rw [applyEvent_load_of_tooLarge s hlarge] at h
    cases h
    exact hs
  · rw [applyEvent_load_of_fits s hfits] at h
    cases h
    exact (State.inv_iff _).2 ⟨pcLegal_progBase, by simpa [State.StackOk] using hstack,
      hstores.memOk hcfg hmem, hlatch.congr (by simp)⟩

theorem applyEvent_inv {e : Event} {s t : State} (hs : s.Inv) (h : applyEvent e s = .next t) :
    t.Inv := by
  cases e
  case tick => exact tick_inv hs h
  case load rom => exact load_inv hs h
  case reset =>
    cases h
    exact s.resetEvent_inv
  case timer60 | keySet | redrawAck =>
    cases h
    exact hs

/-- Settles O48: every event keeps each part of the invariant, a Tick by the outcomes of `exec`. -/
theorem everyStepKeepsInvariant : Obligations.EveryStepKeepsInvariant := fun _ _ =>
  step_keeps (P := State.Inv) (fun _ _ hs => hs) applyEvent_inv

/-- Settles O47: the state after reset is one that Reset leaves. -/
theorem invariantHoldsAtReset : Obligations.InvariantHoldsAtReset := State.reset.resetEvent_inv

/-! ### Progress -/

/-- Every event answers a next state where `pc` is even. -/
theorem applyEvent_next {s : State} (heven : s.PcEven) (e : Event) :
    ∃ t, applyEvent e s = .next t := by
  cases e
  case tick =>
    rcases tick_cases s with ⟨-, ht⟩ | ⟨-, -, ht⟩ | ⟨-, -, hodd, -⟩ | ⟨-, -, -, ht⟩
    · exact ⟨_, ht⟩
    · exact ⟨_, ht⟩
    · exact absurd hodd (by simp [heven])
    · exact (execDecoded_next _ s.afterFetch).imp fun _ h => ht.trans h
  all_goals exact ⟨_, rfl⟩

/-- Settles O49: the one stop is the fetch at an odd `pc`, which the invariant excludes. -/
theorem invariantStatesAlwaysStep : Obligations.InvariantStatesAlwaysStep := by
  intro s hs
  rcases step_cases s with ⟨-, hstep⟩ | ⟨e, rest, -, hstep⟩ <;> rw [hstep]
  · exact applyEvent_next hs.1 .tick
  · exact applyEvent_next (s := { s with pending := rest }) hs.1 e

end Sys2Proof.Machine
end

section
/-!
Which instruction writes which part of the state (10_state.md R10 to R21), read off the parts that an
instruction which completes may write.
-/

namespace Sys2Proof

/-! ### The instructions that write a part -/

section writers
variable {i : Instr}

theorem Instr.index_mem_writes (h : .index ∈ i.writes) : (∃ nnn, i = .ldI nnn)
    ∨ ∃ x, i = .addI x ∨ i = .ldF x ∨ i = .storeRegs x ∨ i = .loadRegs x := by
  cases i <;> simp [Instr.writes] at h ⊢

theorem Instr.stack_mem_writes (h : .stack ∈ i.writes) : i = .ret ∨ ∃ nnn, i = .call nnn := by
  cases i <;> simp [Instr.writes] at h ⊢

theorem Instr.display_mem_writes (h : .display ∈ i.writes) :
    i = .cls ∨ ∃ x y n, i = .drw x y n := by
  cases i <;> simp [Instr.writes] at h ⊢

theorem Instr.redraw_mem_writes (h : .redraw ∈ i.writes) :
    i = .cls ∨ ∃ x y n, i = .drw x y n := by
  cases i <;> simp [Instr.writes] at h ⊢

theorem Instr.delayTimer_mem_writes (h : .delayTimer ∈ i.writes) : ∃ x, i = .ldDtVx x := by
  cases i <;> simp [Instr.writes] at h ⊢

theorem Instr.soundTimer_mem_writes (h : .soundTimer ∈ i.writes) : ∃ x, i = .ldStVx x := by
  cases i <;> simp [Instr.writes] at h ⊢

theorem Instr.memory_mem_writes (h : .memory ∈ i.writes) : ∃ x, i = .ldB x ∨ i = .storeRegs x := by
  cases i <;> simp [Instr.writes] at h ⊢

theorem Instr.pc_mem_writes (h : .pc ∈ i.writes) :
    i = .ret ∨ (∃ nnn, i = .jp nnn ∨ i = .call nnn ∨ i = .jpV0 nnn)
    ∨ (∃ x nn, i = .seImm x nn ∨ i = .sneImm x nn)
    ∨ (∃ x y, i = .seReg x y ∨ i = .sneReg x y)
    ∨ (∃ x, i = .skp x ∨ i = .sknp x ∨ i = .ldVxK x) := by
  cases i <;> simp [Instr.writes] at h ⊢

end writers

end Sys2Proof

namespace Sys2Proof.Machine

/-! ### Which instructions write which state -/

section exec
variable {i : Instr} {s t : State} (h : exec i s = .next t)
include h

/-- A part that is no longer the same was written by the instruction, or by fault entry. -/
theorem mem_writes_of_changed {p : Part} (hfault : p ∉ [Part.pc, .latch, .tickResult])
    (hp : ¬ p.same s t) : p ∈ i.writes := by
  rcases exec_cases h with hdone | ⟨c, w, -, rfl⟩
  · exact not_not.1 fun hw => hp (hdone.frame p hw)
  · exact absurd (SameBut.takeFault s c _ _ w p hfault) hp

theorem exec_keeps_hostParts : t.keypad = s.keypad ∧ t.cfg = s.cfg
    ∧ t.loadResult = s.loadResult ∧ t.pending = s.pending := by
  rcases exec_cases h with hdone | ⟨c, w, -, rfl⟩
  · obtain ⟨-, hcfg, hkeypad, hload, hpending⟩ := hdone.keepsEventState
    exact ⟨hkeypad, hcfg, hload, hpending⟩
  · exact ⟨rfl, rfl, rfl, rfl⟩

/-- Instructions only set the redraw flag (10_state.md R19). -/
theorem exec_redraw (hne : t.redraw ≠ s.redraw) : t.redraw = true := by
  rcases Instr.redraw_mem_writes (mem_writes_of_changed h (p := .redraw) (by simp) hne) with
    rfl | ⟨x, y, n, rfl⟩
  · cases h
    rfl
  · rw [exec_drw, State.afterCheck] at h
    split at h <;> cases h
    · exact absurd rfl hne
    · rfl

end exec

/-- Settles O52: a part that changes is one the instruction is listed to write. -/
theorem instructionsWriteOnlyTheirState : Obligations.InstructionsWriteOnlyTheirState := by
  intro i s t h
  obtain ⟨hkeypad, hcfg, hload, hpending⟩ := exec_keeps_hostParts h
  have hwrites {p : Part} := mem_writes_of_changed h (p := p)
  refine ⟨hkeypad, hcfg, hload, hpending,
    fun hne => Instr.index_mem_writes (hwrites (by simp) hne),
    fun hne => Instr.stack_mem_writes (hwrites (by simp) fun hsame => ?stack),
    fun hne => Instr.display_mem_writes (hwrites (by simp) hne),
    fun hne => ⟨exec_redraw h hne, Instr.redraw_mem_writes (hwrites (p := .redraw) (by simp) hne)⟩,
    fun hne => Instr.delayTimer_mem_writes (hwrites (by simp) hne),
    fun hne => Instr.soundTimer_mem_writes (hwrites (by simp) hne),
    fun ⟨a, hne⟩ => Instr.memory_mem_writes (hwrites (by simp) fun hsame => hne (hsame a))⟩
  case stack =>
    obtain ⟨hsp, hstack⟩ := hsame
    exact hne.elim (· hsp) (· hstack)

/-- The only register from 0xF on is `VF`. -/
theorem eq_vf_of_le {x : Nibble} (h : vf.toNat ≤ x.toNat) : x = vf := by
  have hvf : vf.toNat = 15 := rfl
  have hx := x.isLt
  exact BitVec.eq_of_toNat_eq (by omega)

/-- The instructions that have `VF` among their destinations. -/
theorem Instr.of_writesReg_vf {i : Instr} (h : i.WritesReg vf) :
    (∃ x y, i = .addReg x y ∨ i = .sub x y ∨ i = .subn x y ∨ i = .shr x y ∨ i = .shl x y)
    ∨ (∃ x y n, i = .drw x y n)
    ∨ (∃ nn, i = .ldImm vf nn ∨ i = .addImm vf nn ∨ i = .rnd vf nn)
    ∨ (∃ y, i = .ldReg vf y ∨ i = .orReg vf y ∨ i = .andReg vf y ∨ i = .xorReg vf y)
    ∨ i = .ldVxDt vf ∨ i = .ldVxK vf ∨ i = .loadRegs vf := by
  cases i
  case loadRegs x => simp [eq_vf_of_le h]
  all_goals simp_all [Instr.WritesReg]

/-- Settles O53: `VF` keeps its value where it is no destination register. -/
theorem flagRegisterIsWrittenOnlyByItsWriters :
    Obligations.FlagRegisterIsWrittenOnlyByItsWriters := by
  intro i s t h hne
  rcases exec_cases h with hdone | ⟨c, w, -, rfl⟩
  · exact Instr.of_writesReg_vf (not_not.1 fun hno => hne (hdone.regs vf hno))
  · exact absurd rfl hne

/-- Settles O54: an instruction that changes `pc` and takes no fault is listed to write `pc`. -/
theorem straightLineInstructionsKeepPc : Obligations.StraightLineInstructionsKeepPc := by
  intro i s t h _ hok hne
  rcases exec_cases h with hdone | ⟨c, w, -, rfl⟩
  · exact Instr.pc_mem_writes (not_not.1 fun hw => hne (hdone.frame .pc hw))
  · simp at hok

end Sys2Proof.Machine
end

section
/-!
The faults of a Tick by their conditions (60_exceptions.md R160): the fetch's, and the reasons of the
instructions by the fields of their words.
-/

namespace Sys2Proof.Machine

section raises
variable {i : Instr} {s t : State}

/-- A Tick that leaves a RUNNING core FAULTED faulted in the fetch, or in the instruction decoded,
for one of the instruction's reasons. -/
theorem tick_raises (hrun : s.fault.valid = false) (ht : tick s = .next t)
    (hfault : t.fault.valid = true) :
    ((s.pc.toNat < 0x200 ∨ 0xFFE < s.pc.toNat) ∧ t = s.takeFault .pcOutOfRange s.pc 0 s.pc) ∨
    ∃ i c w, decodeWord s.fetchWord = .instr i ∧ Raises s.afterFetch i c w
      ∧ t = s.takeFault c s.pc (encode i) w := by
  rcases tick_cases s with ⟨hv, -⟩ | ⟨-, hout, hrange⟩ | ⟨-, -, -, hodd⟩ | ⟨-, -, -, hfetch⟩
  · simp [hrun] at hv
  · rw [hrange] at ht
    cases ht
    refine .inl ⟨?_, rfl⟩
    simpa [State.pcOutOfRange] using hout
  · rw [hodd] at ht
    cases ht
  · rw [hfetch] at ht
    obtain ⟨i, -, -, hd, -⟩ := execDecoded_faults (s := s.afterFetch) hrun ht hfault
    rw [hd] at ht
    rcases exec_cases ht with hdone | ⟨c, w, hraises, htaken⟩
    · obtain ⟨hkept, -⟩ := hdone.keepsEventState
      simp [hkept, hrun] at hfault
    · refine .inr ⟨i, c, w, hd, hraises, ?_⟩
      rw [htaken, State.takeFault_afterFetch, State.afterFetch_pc, BitVec.add_sub_cancel]

theorem fieldX_encNNN (c : Nibble) (nnn : Addr12) :
    fieldX (encNNN c nnn) = nnn.extractLsb' 8 4 := by
  refine BitVec.eq_of_getLsbD_eq fun k hk => ?_
  have hlow : 8 + k < 12 := by omega
  simp [fieldX, bit_encNNN, hlow]

/-- A target by the fields of the word: `NNN`, or `NNN` and the offset register (R82 to R84). -/
theorem toNat_target {w : Word} (h : i.target s = some w) :
    ((fieldClass (encode i) = 0x1 ∨ fieldClass (encode i) = 0x2)
      ∧ w.toNat = (fieldNNN (encode i)).toNat)
    ∨ (fieldClass (encode i) = 0xB ∧ w.toNat = (fieldNNN (encode i)).toNat
        + (s.getV (if s.cfg.jumpOffsetVx then fieldX (encode i) else 0)).toNat) := by
  cases i <;> cases h
  case jp nnn => simp [encode, fieldClass_encNNN, fieldNNN_encNNN]
  case call nnn => simp [encode, fieldClass_encNNN, fieldNNN_encNNN]
  case jpV0 nnn =>
    refine .inr ⟨fieldClass_encNNN _ _, ?_⟩
    rw [encode, fieldNNN_encNNN, fieldX_encNNN, s.toNat_jumpOffsetTarget nnn]
    cases s.cfg.jumpOffsetVx
    · rfl
    · exact toNat_extract_highNibble nnn

/-- An access that passes 0xFFF, by the fields of the word. -/
theorem access_overflow {n : Nat} {k : AccessKind} (ha : i.access = some (n, k)) (hn : n ≠ 0)
    (hover : 0x1000 < s.i.toNat + n) :
    (fieldClass (encode i) = 0xD ∧ 0 < (fieldN (encode i)).toNat
        ∧ 0xFFF < s.i.toNat + (fieldN (encode i)).toNat - 1)
      ∨ (fieldClass (encode i) = 0xF ∧ fieldNN (encode i) = 0x33 ∧ 0xFFF < s.i.toNat + 2)
      ∨ (fieldClass (encode i) = 0xF ∧ (fieldNN (encode i) = 0x55 ∨ fieldNN (encode i) = 0x65)
        ∧ 0xFFF < s.i.toNat + (fieldX (encode i)).toNat) := by
  cases i <;> cases ha
  case drw x y n =>
    rw [encode, fieldClass_encXYN, fieldN_encXYN]
    exact .inl ⟨rfl, by omega, by omega⟩
  case ldB x =>
    rw [encode, fieldClass_encXNN, fieldNN_encXNN]
    exact .inr (.inl ⟨rfl, rfl, by omega⟩)
  case storeRegs x =>
    rw [encode, fieldClass_encXNN, fieldNN_encXNN, fieldX_encXNN]
    exact .inr (.inr ⟨rfl, .inl rfl, by omega⟩)
  case loadRegs x =>
    rw [encode, fieldClass_encXNN, fieldNN_encXNN, fieldX_encXNN]
    exact .inr (.inr ⟨rfl, .inr rfl, by omega⟩)

/-- A write that meets the font, by the fields of the word. -/
theorem access_font {n : Nat} (ha : i.access = some (n, .write)) (hhigh : 0x050 < s.i.toNat + n) :
    fieldClass (encode i) = 0xF ∧ ((fieldNN (encode i) = 0x33 ∧ 0x050 ≤ s.i.toNat + 2)
      ∨ (fieldNN (encode i) = 0x55 ∧ 0x050 ≤ s.i.toNat + (fieldX (encode i)).toNat)) := by
  cases i <;> cases ha
  case ldB x =>
    rw [encode, fieldClass_encXNN, fieldNN_encXNN]
    exact ⟨rfl, .inl ⟨rfl, by omega⟩⟩
  case storeRegs x =>
    rw [encode, fieldClass_encXNN, fieldNN_encXNN, fieldX_encXNN]
    exact ⟨rfl, .inr ⟨rfl, by omega⟩⟩

/-- Settles O38: the fetch's fault, and each reason of an instruction by the fields of its word. -/
theorem onlyTheSixConditionsFault : Obligations.OnlyTheSixConditionsFault := by
  intro s t op hrun ht hfault hop
  rcases tick_raises hrun ht hfault with ⟨hout, rfl⟩ | ⟨i, c, w, hdecode, hraises, rfl⟩
  · exact .inr (.inr (.inr (.inl ⟨rfl, hout, rfl⟩)))
  · obtain rfl : op = encode i := hop.trans (encode_of_decodeWord hdecode).symm
    cases hraises with
    | underflow hsp => exact .inr (.inl ⟨rfl, rfl, hsp, rfl⟩)
    | overflow nnn hsp =>
      refine .inl ⟨rfl, fieldClass_encNNN _ _, hsp, ?_⟩
      rw [encode, fieldNNN_encNNN]
      exact toNat_zextAddr nnn
    | target hw hodd =>
      rw [misaligned_eq_decide, decide_eq_true_eq] at hodd
      exact .inr (.inr (.inr (.inr (.inl ⟨rfl, hodd, toNat_target hw⟩))))
    | range ha hc =>
      obtain ⟨hn, ⟨rfl, rfl, hover⟩ | ⟨rfl, rfl, -, hlow, hhigh, rfl⟩⟩ := State.checkRange_cases hc
      · exact .inr (.inr (.inl ⟨rfl, rfl, access_overflow ha hn hover⟩))
      · obtain ⟨hclass, hminor⟩ := access_font ha hhigh
        have hinfo : (BitVec.ofNat 16 (max s.i.toNat 0x050)).toNat = max s.i.toNat 0x050 := by
          have := s.i.isLt
          rw [BitVec.toNat_ofNat]
          omega
        exact .inr (.inr (.inr (.inr (.inr ⟨rfl, hclass, hlow, hinfo, hminor⟩))))

end raises

end Sys2Proof.Machine
end

section
/-!
One step of the machine (60_exceptions.md R184): the event it performs, what the Tick fetches and
runs (20_memory.md R46, 30_encoding.md R62), and the latch of a FAULTED core (R164, R165).
-/

namespace Sys2Proof.Machine

/-! ### The event of a step -/

section step
variable {s : State}

theorem step_of_pending {e : Event} {rest : List Event} (h : s.pending = e :: rest) :
    step s = applyEvent e { s with pending := rest } := by
  simp only [step, advance, h]

theorem step_of_idle (h : s.pending = []) : step s = tick s := by
  simp only [step, advance, h]

/-- A step that is a Tick, asked for or not. -/
theorem step_eq_tick {rest : List Event}
    (h : s.pending = [] ∧ rest = [] ∨ s.pending = .tick :: rest) :
    step s = tick { s with pending := rest } := by
  rcases h with ⟨hp, rfl⟩ | hp
  · have hs : { s with pending := [] } = s := by rw [← hp]
    rw [hs, step_of_idle hp]
  · exact step_of_pending hp

end step

/-- Settles O57, by the two forms of the list of pending events. -/
theorem stepPerformsTheOldestEvent : Obligations.StepPerformsTheOldestEvent := fun _ =>
  ⟨fun _ _ h => step_of_pending h, step_of_idle⟩

/-! ### The Tick of a step -/

/-- Settles O33: the word fetched is the two bytes at `pc`. -/
theorem stepRunsTheDecodedInstruction : Obligations.StepRunsTheDecodedInstruction := by
  intro s rest hrun hlow hhigh heven hp
  have htick : step s = execDecoded
      (decodeBytes (s.readByte s.pc.toNat) (s.readByte (s.pc.toNat + 1)))
      { s with pc := s.pc + 2, tickResult := .ok, pending := rest } :=
    (step_eq_tick hp).trans (tick_fetched (s := { s with pending := rest }) hrun
      ((State.pcOutOfRange_eq_false _).2 ⟨hlow, hhigh⟩) (misaligned_of_even heven))
  refine ⟨fun i hi => ?instr, fun op hop => ?unknown⟩
  case instr => rw [htick, hi, execDecoded]
  case unknown =>
    rw [htick, hop, execDecoded, execUnknown, State.diag]
    simp only [BitVec.add_sub_cancel]

theorem SameBut.setPending (s : State) (es : List Event) :
    SameBut [.pending] s { s with pending := es } := by
  intro p hp
  cases p
  case pending => simp at hp
  case regs => exact fun _ => rfl
  case memory => exact fun _ => rfl
  case stack => exact ⟨rfl, rfl⟩
  all_goals rfl

/-- Settles O34: the fetch's fault is taken at `pc`, with `pc` as its info. -/
theorem fetchOutOfRangeFaults : Obligations.FetchOutOfRangeFaults := by
  intro s rest hrun hout hp
  have hrange : ({ s with pending := rest } : State).pcOutOfRange = true := by
    simpa [State.pcOutOfRange] using hout
  exact ⟨_, (step_eq_tick hp).trans (tick_outOfRange (s := { s with pending := rest }) hrun hrange),
    rfl, rfl, rfl,
    ((SameBut.setPending s rest).trans (SameBut.takeFault_pc _ _ _ _)).mono (by simp)⟩

/-- Settles O36: a Tick of a FAULTED core writes its result alone, and no other event but Reset
writes the latch. -/
theorem onlyResetLeavesFaulted : Obligations.OnlyResetLeavesFaulted := by
  intro e s t hfault h
  cases e
  case tick =>
    rw [applyEvent, tick_faulted hfault] at h
    cases h
    exact ⟨fun _ => rfl, nofun⟩
  case load rom =>
    rcases Nat.lt_or_ge 3584 rom.length with hlarge | hfits
    · rw [applyEvent_load_of_tooLarge s hlarge] at h
      cases h
      exact ⟨fun _ => rfl, nofun⟩
    · rw [applyEvent_load_of_fits s hfits] at h
      cases h
      exact ⟨fun _ => by simp, nofun⟩
  case reset =>
    cases h
    exact ⟨fun hne => absurd rfl hne, fun _ => rfl⟩
  case timer60 | keySet | redrawAck =>
    cases h
    exact ⟨fun _ => rfl, nofun⟩

/-! ### A word placed where the next step fetches (20_memory.md R54) -/

theorem State.placeWord_pc (s : State) (op : Word) : (s.placeWord op).pc = s.pc :=
  s.writeBytes_pc _ _

/-- The two bytes of a placed word are read back as the word. -/
theorem State.fetchWord_placeWord {s : State} (hwf : s.MemWf) (op : Word) :
    (s.placeWord op).fetchWord = op := by
  have hbyte (k : Nat) (b : Byte) (hk : [firstByte op, secondByte op][k]? = some b) :
      (s.placeWord op).readByte (s.pc.toNat + k) = b :=
    State.readByte_writeBytes_of_getElem? hwf s.pc.toNat hk
  have hfirst : (s.placeWord op).readByte s.pc.toNat = firstByte op := hbyte 0 _ rfl
  rw [State.fetchWord, State.placeWord_pc, hfirst, hbyte 1 _ rfl, wordOfBytes_bytes]

section readyToFetch
variable (s : State)

theorem State.readyToFetch_running : s.readyToFetch.fault.valid = false := by
  unfold State.readyToFetch
  cases h : s.fault.valid <;> simp [h, FaultLatch.empty]

/-- The `pc` made ready is in range and even. -/
theorem State.readyToFetch_pc :
    s.readyToFetch.pcOutOfRange = false ∧ misaligned s.readyToFetch.pc = false := by
  by_cases h : (s.pcOutOfRange || misaligned s.pc) = true
  · have hpc : s.readyToFetch.pc = 0x200 := if_pos h
    simp only [State.pcOutOfRange, hpc]
    decide
  · have hpc : s.readyToFetch.pc = s.pc := if_neg h
    simp only [State.pcOutOfRange, hpc]
    simpa [State.pcOutOfRange] using h

end readyToFetch

theorem State.withFetchWord_eq (s : State) (op : Word) :
    s.withFetchWord 16 op.toNat = s.readyToFetch.placeWord op := by
  rw [State.withFetchWord, State.withTableWord, Nat.mod_eq_of_lt op.isLt, BitVec.ofNat_toNat,
    BitVec.setWidth_eq]

/-- Settles O39: the state made ready fetches, and what it fetches is the word placed. -/
theorem placedWordRunsNext : Obligations.PlacedWordRunsNext := by
  intro s op hwf
  obtain ⟨hrange, heven⟩ := s.readyToFetch_pc
  have hidle : (s.readyToFetch.placeWord op).pending = [] := State.writeBytes_pending _ _ _
  have hrun : (s.readyToFetch.placeWord op).fault.valid = false := by
    rw [State.placeWord, State.writeBytes_fault, State.readyToFetch_running]
  rw [State.withFetchWord_eq, step_of_idle hidle, tick_fetched hrun (by
      rwa [State.pcOutOfRange, State.placeWord_pc]) (by rwa [State.placeWord_pc]),
    State.fetchWord_placeWord (s := s.readyToFetch) hwf]

end Sys2Proof.Machine
end

section
/-!
What no instruction can see (10_state.md R14, R18 to R20): the stack slots above the depth and the
four outputs. Two runs from states that differ in these alone differ in these alone afterwards.
-/

namespace Sys2Proof.Machine

/-! ### The parts that are replaced -/

/-- The parts of a state that instructions do not read, with the dead slots of `stack`. -/
structure Hidden where
  stack : Vector Word 16
  st : Byte
  redraw : Bool
  fault : FaultLatch
  loadResult : LoadResult

def State.withHidden (s : State) (h : Hidden) : State :=
  { s with
    stack := h.stack, st := h.st, redraw := h.redraw, fault := h.fault, loadResult := h.loadResult }

def State.hidden (s : State) : Hidden := ⟨s.stack, s.st, s.redraw, s.fault, s.loadResult⟩

/-- A value is the same after both runs, or both runs keep it. -/
def SameOrKept {α : Type} (a a' b b' : α) : Prop := b' = b ∨ b' = a' ∧ b = a

/-- Two runs, from `s` to `t` and from `s'` to `t'`, end alike: in all but the hidden parts, and in
those too where the runs write them. -/
structure EndAlike (s s' t t' : State) : Prop where
  visible : t' = t.withHidden t'.hidden
  live : ∀ k : Fin 16, k.val < t.sp.val → t'.stack[k] = t.stack[k]
  slots : ∀ k : Fin 16, SameOrKept s.stack[k] s'.stack[k] t.stack[k] t'.stack[k]
  st : SameOrKept s.st s'.st t.st t'.st
  redraw : SameOrKept s.redraw s'.redraw t.redraw t'.redraw
  fault : SameOrKept s.fault s'.fault t.fault t'.fault
  loadResult : SameOrKept s.loadResult s'.loadResult t.loadResult t'.loadResult

/-- Both runs answer a next state, and they end alike. -/
def RunAlike (s s' : State) (a a' : Answer) : Prop :=
  ∃ t t', a = .next t ∧ a' = .next t' ∧ EndAlike s s' t t'

section withHidden
variable (s : State) (h : Hidden)

theorem State.withHidden_writeBytes (a : Nat) (bs : List Byte) :
    (s.withHidden h).writeBytes a bs = (s.writeBytes a bs).withHidden h := by
  rw [State.writeBytes_frame, s.writeBytes_frame bs a,
    State.writeBytes_mem_congr bs (s := s) (t := s.withHidden h) a rfl rfl]
  rfl

theorem State.setRegs_v_congr (bs : List Byte) {s t : State} (k : Nat) (hv : t.v = s.v) :
    (t.setRegs k bs).v = (s.setRegs k bs).v := by
  induction bs generalizing s t k with
  | nil => exact hv
  | cons b bs ih => exact ih (k + 1) (by simp [hv])

theorem State.withHidden_setRegs (k : Nat) (bs : List Byte) :
    (s.withHidden h).setRegs k bs = (s.setRegs k bs).withHidden h := by
  rw [State.setRegs_frame, s.setRegs_frame bs k,
    State.setRegs_v_congr bs (s := s) (t := s.withHidden h) k rfl]
  rfl

theorem State.withHidden_firstKey : (s.withHidden h).firstKey = s.firstKey := rfl

end withHidden

section alike
variable {s : State} {h : Hidden} (hlive : ∀ k : Fin 16, k.val < s.sp.val → h.stack[k] = s.stack[k])
include hlive

theorem RunAlike.of_kept {t : State} (hsp : t.sp = s.sp) (hhidden : t.hidden = s.hidden) :
    RunAlike s (s.withHidden h) (.next t) (.next (t.withHidden h)) := by
  obtain ⟨hstack, hst, hredraw, hfault, hload⟩ := Hidden.mk.inj hhidden
  exact ⟨_, _, rfl, rfl, rfl, fun k hk => hstack ▸ hlive k (hsp ▸ hk),
    fun k => .inr ⟨rfl, by rw [hstack]⟩, .inr ⟨rfl, hst⟩, .inr ⟨rfl, hredraw⟩, .inr ⟨rfl, hfault⟩,
    .inr ⟨rfl, hload⟩⟩

theorem RunAlike.raise (c : FaultCause) (op info : Word) :
    RunAlike s (s.withHidden h) (raise c op info s) (raise c op info (s.withHidden h)) :=
  ⟨_, _, rfl, rfl, rfl, hlive, fun _ => .inr ⟨rfl, rfl⟩, .inr ⟨rfl, rfl⟩, .inr ⟨rfl, rfl⟩, .inl rfl,
    .inr ⟨rfl, rfl⟩⟩

theorem RunAlike.skipIf (c : Bool) :
    RunAlike s (s.withHidden h) (skipIf c s) (skipIf c (s.withHidden h)) := by
  rw [skipIf_eq, skipIf_eq]
  exact .of_kept hlive rfl rfl

theorem RunAlike.jumpTo (op t : Word) :
    RunAlike s (s.withHidden h) (jumpTo op t s) (jumpTo op t (s.withHidden h)) := by
  unfold Machine.jumpTo
  split
  · exact .raise hlive _ _ _
  · exact .of_kept hlive rfl rfl

theorem RunAlike.afterCheck {n : Nat} {k : AccessKind} {i : Instr} {f f' : State}
    (hf : RunAlike s (s.withHidden h) (.next f) (.next f')) :
    RunAlike s (s.withHidden h) (s.afterCheck n k i f) ((s.withHidden h).afterCheck n k i f') := by
  have hcheck : (s.withHidden h).checkRange n k = s.checkRange n k := rfl
  unfold State.afterCheck
  rw [hcheck]
  split
  · exact .raise hlive _ _ _
  · exact hf

/-- An instruction that sets the redraw flag in both runs. -/
theorem RunAlike.of_redrawn {t : State} (hsp : t.sp = s.sp)
    (hhidden : t.hidden = { s.hidden with redraw := true }) :
    RunAlike s (s.withHidden h) (.next t) (.next (t.withHidden { h with redraw := true })) := by
  obtain ⟨hstack, hst, hredraw, hfault, hload⟩ := Hidden.mk.inj hhidden
  exact ⟨_, _, rfl, rfl, rfl, fun k hk => hstack ▸ hlive k (hsp ▸ hk),
    fun k => .inr ⟨rfl, by rw [hstack]; rfl⟩, .inr ⟨rfl, hst⟩, .inl hredraw.symm,
    .inr ⟨rfl, hfault⟩, .inr ⟨rfl, hload⟩⟩

theorem runAlike_ret : RunAlike s (s.withHidden h) (execRet s) (execRet (s.withHidden h)) := by
  by_cases hsp : 0 < s.sp.val
  · have hpop {u : State} (hu : 0 < u.sp.val) : execRet u = .next { u with
        pc := u.stack[u.sp.val - 1], sp := ⟨u.sp.val - 1, by omega⟩ } :=
      execRet_of_entry (dif_pos hu)
    have htop : h.stack[s.sp.val - 1] = s.stack[s.sp.val - 1] :=
      hlive ⟨s.sp.val - 1, by omega⟩ (Nat.sub_lt hsp Nat.one_pos)
    refine ⟨_, _, hpop hsp, hpop (u := s.withHidden h) hsp, ?visible,
      fun k hk => hlive k (Nat.lt_of_lt_of_le hk (Nat.sub_le _ _)), fun _ => .inr ⟨rfl, rfl⟩,
      .inr ⟨rfl, rfl⟩, .inr ⟨rfl, rfl⟩, .inr ⟨rfl, rfl⟩, .inr ⟨rfl, rfl⟩⟩
    case visible => simp only [State.withHidden, State.hidden, htop]
  · have hempty {u : State} (hu : ¬ 0 < u.sp.val) :
        execRet u = raise .stackUnderflow (encode .ret) 0 u := execRet_of_empty (by omega)
    rw [hempty hsp, hempty (u := s.withHidden h) hsp]
    exact .raise hlive _ _ _

theorem runAlike_call (nnn : Addr12) :
    RunAlike s (s.withHidden h) (execCall nnn s) (execCall nnn (s.withHidden h)) := by
  unfold execCall
  split
  · exact .raise hlive _ _ _
  · by_cases hsp : s.sp.val < 16
    · have hpush {u : State} (hu : u.sp.val < 16) : u.push = some { u with
          stack := u.stack.set u.sp.val u.pc hu, sp := ⟨u.sp.val + 1, by omega⟩ } := dif_pos hu
      rw [hpush hsp, hpush (u := s.withHidden h) hsp]
      have hset (k : Fin 16) : (k.val = s.sp.val
            ∧ (h.stack.set s.sp.val s.pc hsp)[k] = (s.stack.set s.sp.val s.pc hsp)[k])
          ∨ (k.val ≠ s.sp.val ∧ (h.stack.set s.sp.val s.pc hsp)[k] = h.stack[k]
            ∧ (s.stack.set s.sp.val s.pc hsp)[k] = s.stack[k]) := by
        by_cases hk : k.val = s.sp.val
        · exact .inl ⟨hk, by simp [hk]⟩
        · exact .inr ⟨hk, by simp [Ne.symm hk], by simp [Ne.symm hk]⟩
      refine ⟨_, _, rfl, rfl, rfl, fun k hk => ?live, fun k => ?slots, .inr ⟨rfl, rfl⟩,
        .inr ⟨rfl, rfl⟩, .inr ⟨rfl, rfl⟩, .inr ⟨rfl, rfl⟩⟩
      case live =>
        have hk : k.val < s.sp.val + 1 := hk
        rcases hset k with ⟨-, htop⟩ | ⟨hne, hold', hold⟩
        · exact htop
        · exact hold'.trans ((hlive k (by omega)).trans hold.symm)
      case slots =>
        rcases hset k with ⟨-, htop⟩ | ⟨-, hold', hold⟩
        · exact .inl htop
        · exact .inr ⟨hold', hold⟩
    · have hfull {u : State} (hu : ¬ u.sp.val < 16) : u.push = none := dif_neg hu
      rw [hfull hsp, hfull (u := s.withHidden h) hsp]
      exact .raise hlive _ _ _

theorem runAlike_ldVxK (x : Nibble) :
    RunAlike s (s.withHidden h) (execLdVxK x s) (execLdVxK x (s.withHidden h)) := by
  unfold execLdVxK
  rw [State.withHidden_firstKey]
  split <;> exact .of_kept hlive rfl rfl

/-- No instruction reads a hidden part. -/
theorem exec_alike (i : Instr) :
    RunAlike s (s.withHidden h) (exec i s) (exec i (s.withHidden h)) := by
  cases i
  case ret => exact runAlike_ret hlive
  case call nnn => exact runAlike_call hlive nnn
  case jp | jpV0 => exact .jumpTo hlive _ _
  case seImm | sneImm | seReg | sneReg | skp | sknp => exact .skipIf hlive _
  case ldVxK x => exact runAlike_ldVxK hlive x
  case cls => exact .of_redrawn hlive rfl rfl
  case drw x y n =>
    rw [exec_drw, exec_drw]
    exact .afterCheck hlive (.of_redrawn hlive rfl rfl)
  case ldB x =>
    rw [exec_ldB, exec_ldB]
    exact .afterCheck hlive (by
      rw [State.withHidden_writeBytes]
      exact .of_kept hlive (by simp) (by simp [State.hidden]))
  case storeRegs x =>
    rw [exec_storeRegs, exec_storeRegs]
    exact .afterCheck hlive (by
      rw [State.withHidden_writeBytes]
      exact .of_kept hlive (by simp) (by simp [State.hidden]))
  case loadRegs x =>
    rw [exec_loadRegs, exec_loadRegs]
    exact .afterCheck hlive (by
      rw [State.withHidden_setRegs]
      exact .of_kept hlive (by simp) (by simp [State.hidden]))
  case ldStVx x =>
    exact ⟨_, _, rfl, rfl, rfl, hlive, fun _ => .inr ⟨rfl, rfl⟩, .inl rfl, .inr ⟨rfl, rfl⟩,
      .inr ⟨rfl, rfl⟩, .inr ⟨rfl, rfl⟩⟩
  all_goals exact .of_kept hlive rfl rfl

end alike

/-- Settles O56: the four outputs are hidden parts, with the stack left as it is. -/
theorem outputsAreInvisibleToInstructions : Obligations.OutputsAreInvisibleToInstructions := by
  intro i s t st redraw latch lr ht
  obtain ⟨t', u, ht', hu, halike⟩ :=
    exec_alike (s := s) (h := ⟨s.stack, st, redraw, latch, lr⟩) (fun _ _ => rfl) i
  cases ht.symm.trans ht'
  have hstack : u.stack = t.stack := by
    refine Vector.ext fun k hk => ?_
    rcases halike.slots ⟨k, hk⟩ with h | ⟨h, h'⟩
    · exact h
    · exact h.trans h'.symm
  refine ⟨u, hu, ?_⟩
  rw [halike.visible]
  exact ⟨rfl, rfl, rfl, rfl, hstack, rfl, rfl, rfl, rfl, rfl, rfl, rfl, rfl, halike.st,
    halike.redraw, halike.fault, halike.loadResult⟩

/-! ### The dead slots in a step (D30) -/

theorem SameOrKept.eq {α : Type} {a b b' : α} (h : SameOrKept a a b b') : b' = b := by
  rcases h with h | ⟨h', h⟩
  · exact h
  · exact h'.trans h.symm

/-- `s` with another stack. -/
def State.withStack (s : State) (k : Vector Word 16) : State :=
  s.withHidden { s.hidden with stack := k }

theorem EndAlike.sameButDeadSlots {s t t' : State} {k : Vector Word 16}
    (h : EndAlike s (s.withStack k) t t') : SameButDeadSlots t t' := by
  refine ⟨h.visible.trans ?_, h.live⟩
  rw [State.withHidden, State.hidden, h.st.eq, h.redraw.eq, h.fault.eq, h.loadResult.eq]

/-- Two answers of the same kind: next states that differ in dead slots alone, or the same stop. -/
def AnswersAlike (a b : Answer) : Prop :=
  (∃ s' t', a = .next s' ∧ b = .next t' ∧ SameButDeadSlots s' t') ∨
  (∃ f, a = .fault f ∧ b = .fault f) ∨ ∃ r, a = .refused r ∧ b = .refused r

/-- The one stop: the fetch at an odd `pc` in range (log entry 6). -/
theorem tick_misaligned {s : State} (hf : s.fault.valid = false) (hin : s.pcOutOfRange = false)
    (hodd : misaligned s.pc = true) : tick s = .fault (.misalignedFetch s.pc) := by
  simp [tick, hf, hin, hodd]

section withStack
variable {s : State} {k : Vector Word 16}
  (hlive : ∀ j : Fin 16, j.val < s.sp.val → k[j] = s.stack[j])
include hlive

theorem execDecoded_alike (d : Decoded) :
    AnswersAlike (execDecoded d s) (execDecoded d (s.withStack k)) := by
  cases d with
  | unknown op => exact .inl ⟨_, _, rfl, rfl, rfl, hlive⟩
  | instr i =>
    obtain ⟨t, t', ht, ht', halike⟩ := exec_alike hlive (h := { s.hidden with stack := k }) i
    exact .inl ⟨t, t', ht, ht', halike.sameButDeadSlots⟩

theorem tick_alike : AnswersAlike (tick s) (tick (s.withStack k)) := by
  rcases tick_cases s with ⟨hv, ht⟩ | ⟨hv, hout, ht⟩ | ⟨hv, hin, hodd, ht⟩ | ⟨hv, hin, heven, ht⟩
  all_goals rw [ht]
  · rw [tick_faulted (s := s.withStack k) hv]
    exact .inl ⟨_, _, rfl, rfl, rfl, hlive⟩
  · rw [tick_outOfRange (s := s.withStack k) hv hout]
    exact .inl ⟨_, _, rfl, rfl, rfl, hlive⟩
  · exact .inr (.inl ⟨_, rfl, tick_misaligned (s := s.withStack k) hv hin hodd⟩)
  · rw [tick_fetched (s := s.withStack k) hv hin heven]
    exact execDecoded_alike (s := s.afterFetch) hlive _

theorem load_alike (rom : List Byte) :
    AnswersAlike (applyEvent (.load rom) s) (applyEvent (.load rom) (s.withStack k)) := by
  rcases Nat.lt_or_ge 3584 rom.length with hlarge | hfits
  · rw [applyEvent_load_of_tooLarge _ hlarge, applyEvent_load_of_tooLarge _ hlarge]
    exact .inl ⟨_, _, rfl, rfl, rfl, hlive⟩
  · rw [applyEvent_load_of_fits _ hfits, applyEvent_load_of_fits _ hfits, State.withStack,
      State.withHidden_writeBytes]
    refine .inl ⟨_, _, rfl, rfl, ?_, fun j hj => ?_⟩
    · simp [State.withHidden, State.hidden, State.setPc]
    · simpa [State.withHidden] using hlive j (by simpa using hj)

theorem applyEvent_alike (e : Event) :
    AnswersAlike (applyEvent e s) (applyEvent e (s.withStack k)) := by
  cases e
  case tick => exact tick_alike hlive
  case load rom => exact load_alike hlive rom
  case reset => exact .inl ⟨_, _, rfl, rfl, rfl, fun _ _ => rfl⟩
  case timer60 | keySet | redrawAck => exact .inl ⟨_, _, rfl, rfl, rfl, hlive⟩

end withStack

/-- Settles O55: no event reads a dead slot, and a call writes over the lowest one. -/
theorem deadStackSlotsAreUnobservable : Obligations.DeadStackSlotsAreUnobservable := by
  rintro s t ⟨ht, hlive⟩
  generalize t.stack = k at ht hlive
  subst ht
  change AnswersAlike (step s) (step (s.withStack k))
  cases hp : s.pending with
  | nil =>
    rw [step_of_idle hp, step_of_idle (s := s.withStack k) hp]
    exact tick_alike hlive
  | cons e rest =>
    rw [step_of_pending hp, step_of_pending (s := s.withStack k) hp]
    exact applyEvent_alike (s := { s with pending := rest }) hlive e

end Sys2Proof.Machine
end

section
/-!
The random byte, the range check, the call with its return, and the draw repeated
(43_random_draw.md, 20_memory.md R49, 95_test_vectors.md P2 and P5).
-/

namespace Sys2Proof.Machine

/-- Settles O20: what the call pushes, the return pops. -/
theorem callThenReturnComesBack : Obligations.CallThenReturnComesBack := by
  intro nnn s heven hroom
  obtain ⟨t, ht, hsp, htop, -, hframe⟩ := State.push_of_room (s := s) (k := ⟨s.sp.val, hroom⟩) rfl
  obtain ⟨u, hu, husp, hupc, -, huframe⟩ :=
    State.pop_of_entry (s := t.setPc (zextAddr nnn)) (k := ⟨s.sp.val, hroom⟩) hsp
  have hpc : u.pc = s.pc := hupc.trans htop
  refine ⟨_, u, execCall_of_room heven ht, execRet_of_entry hu, hpc, Fin.ext husp, fun p hp => ?_⟩
  by_cases h : p = .pc
  · exact h ▸ hpc
  · exact ((hframe.trans (SameBut.setPc t _)).trans huframe) p (by simpa [h] using hp)

/-- Settles O21: a bit of the mask that is clear is clear in the AND. -/
theorem randomIsMasked : Obligations.RandomIsMasked := by
  intro x nn s
  obtain ⟨hdest, hregs, hframe⟩ := setV_effect s x (Config.drawByte s.draws &&& nn)
  refine ⟨decodeWord_encXNN_rnd x nn, _, rfl, hdest, ?masked, rfl, hregs,
    hframe.trans (SameBut.setDraws _ _)⟩
  case masked =>
    change (s.setV x _).getV x &&& ~~~nn = 0
    rw [hdest, BitVec.and_assoc, BitVec.and_not_self]
    exact BitVec.and_zero

/-- Settles O28, by the three outcomes of the check. -/
theorem rangeCheckNamesTheFault : Obligations.RangeCheckNamesTheFault := by
  intro s n k hpos hle
  refine ⟨fun hover => State.checkRange_of_overflow k (by omega) (by omega),
    fun hend hk hlow hhigh => ?font, fun hend hoff => ?passes⟩
  case font =>
    subst hk
    refine ⟨_, State.checkRange_of_font (by omega) (by omega) hlow (by omega), ?_⟩
    have := s.i.isLt
    rw [BitVec.toNat_ofNat, fontBase]
    omega
  case passes =>
    refine (s.checkRange_eq_none n k).2 (.inr ⟨by omega, fun hk => ?_⟩)
    rcases hoff with hread | habove | hbelow
    · cases hk.symm.trans hread
    · exact .inl habove
    · exact .inr (by omega)

/-! ### The draw repeated (P5) -/

/-- Two framebuffers with the same pixels are equal. -/
theorem Framebuffer.ext_pixel {a b : Framebuffer}
    (h : ∀ px py : Nat, px < 64 → py < 32 → pixel a px py = pixel b px py) : a = b := by
  refine Vector.ext fun py hy => Vector.ext fun px hx => ?_
  simpa [pixel, hx, hy] using h px py hx hy

/-- What a sprite covers depends on `I`, memory and the configuration alone. -/
theorem SpriteCovers.congr {s t : State} {x0 y0 n px py : Nat} (hi : t.i = s.i)
    (hmem : ∀ a, t.readByte a = s.readByte a) (hcfg : t.cfg = s.cfg) :
    SpriteCovers t x0 y0 n px py ↔ SpriteCovers s x0 y0 n px py := by
  simp only [SpriteCovers, hi, hmem, hcfg]

/-- Settles O23: the second draw covers the same pixels, inverts each again, and collides with those
the first one set. -/
theorem drawingTwiceRestoresDisplay : Obligations.DrawingTwiceRestoresDisplay := by
  intro x y n s t u hfits ht hx hy hu
  obtain ⟨-, hdraw, -⟩ := drawInvertsCoveredPixels x y n s
  obtain ⟨t', ht', hpix, hflag, hcoll, -, -, hframe⟩ := hdraw hfits
  cases ht.symm.trans ht'
  have hi : t.i = s.i := hframe .index (by simp)
  have hcovers (px py : Nat) := SpriteCovers.congr (x0 := (s.getV x).toNat)
    (y0 := (s.getV y).toNat) (n := n.toNat) (px := px) (py := py) hi (hframe .memory (by simp))
    (hframe .config (by simp))
  obtain ⟨-, hdraw', -⟩ := drawInvertsCoveredPixels x y n t
  obtain ⟨u', hu', hpix', hflag', hcoll', -⟩ := hdraw' (hi ▸ hfits)
  cases hu.symm.trans hu'
  simp only [hx, hy, hcovers] at hpix' hcoll'
  refine ⟨Framebuffer.ext_pixel fun px py hpx hpy => ?restored, fun hclear => ⟨?first, ?hit, ?miss⟩⟩
  case restored =>
    obtain ⟨hin, hout⟩ := hpix px py hpx hpy
    obtain ⟨hin', hout'⟩ := hpix' px py hpx hpy
    by_cases hc : SpriteCovers s (s.getV x).toNat (s.getV y).toNat n.toNat px py
    · rw [hin' hc, hin hc, Bool.not_not]
    · rw [hout' hc, hout hc]
  case first =>
    refine hflag.resolve_right fun hone => ?_
    obtain ⟨px, py, hpx, hpy, hon, -⟩ := hcoll.1 hone
    cases hon.symm.trans (hclear px py hpx hpy)
  case hit =>
    rintro ⟨px, py, hpx, hpy, hc⟩
    refine hcoll'.2 ⟨px, py, hpx, hpy, ?_, hc⟩
    rw [(hpix px py hpx hpy).1 hc, hclear px py hpx hpy, Bool.not_false]
  case miss =>
    intro hnone
    refine hflag'.resolve_right fun hone => ?_
    obtain ⟨px, py, hpx, hpy, -, hc⟩ := hcoll'.1 hone
    exact hnone ⟨px, py, hpx, hpy, hc⟩

end Sys2Proof.Machine
end

section
/-!
The timers in the long run, the outputs, and what Reset leaves (60_exceptions.md R180 to R183,
70_reset_and_hazards.md R200, 10_state.md R23).
-/

namespace Sys2Proof.Machine

/-- Settles O41, by induction on the number of Timer60 events. -/
theorem timersRunDownToZero : Obligations.TimersRunDownToZero := by
  intro n s
  induction n with
  | zero => exact ⟨rfl, rfl⟩
  | succ n ih =>
    obtain ⟨hdt, hst⟩ := ih
    rw [Function.iterate_succ_apply', State.timer60_dt, State.timer60_st, toNat_countDown,
      toNat_countDown, hdt, hst]
    exact ⟨Nat.sub_sub _ _ _, Nat.sub_sub _ _ _⟩

/-- Settles O46: pixel `64 * y + x` of the output is row `y`, column `x`. -/
theorem outputsShowDisplayAndSound : Obligations.OutputsShowDisplayAndSound := by
  intro s
  refine ⟨fun x y k hk => ?pixel, ?sound⟩
  case pixel =>
    have hcol : k.val % 64 = x.val := by omega
    have hrow : k.val / 64 = y.val := by omega
    simp [State.fbExport, hcol, hrow, pixel]
  case sound =>
    rw [State.soundOn_iff, ne_eq, ne_eq, ← BitVec.toNat_inj]
    rfl

theorem resetByte_outside_font (font : Font) {a : Nat} (h : a < 0x050 ∨ 0x09F < a) :
    resetByte font a = 0 :=
  dif_neg (by omega)

/-- Reset keeps the configuration and the model's own fields (log entries 1, 2 and 5). -/
theorem SameBut.resetEvent (s : State) :
    SameBut [.regs, .index, .pc, .stack, .display, .redraw, .keypad, .delayTimer, .soundTimer,
      .latch, .memory, .tickResult, .loadResult] s s.resetEvent := by
  intro p hp
  cases p
  case config | draws | pending => rfl
  all_goals simp at hp

/-- Settles O44: an empty memory list reads as the font and zero. -/
theorem resetRestoresEverything : Obligations.ResetRestoresEverything := by
  intro s
  refine ⟨s.resetEvent, rfl, fun r => ?regs, rfl, rfl, rfl, fun k => ?stack, pixel_blank,
    fun k => ?keypad, rfl, rfl, rfl, rfl, resetByte_font s.cfg.font,
    fun _ => resetByte_outside_font s.cfg.font, SameBut.resetEvent s⟩
  case regs => simp [State.getV]
  case stack => simp
  case keypad => simp

/-- Settles O45: the state after reset is one that Reset leaves. -/
theorem resetStateHoldsTheSpecValues : Obligations.ResetStateHoldsTheSpecValues := by
  obtain ⟨t, ht, hregs, hi, hpc, hsp, hstack, hfb, hkeypad, hdt, hst, hredraw, hfault, hfont, hzero,
    -⟩ := resetRestoresEverything State.reset
  obtain rfl : State.reset = t := Host.Outcome.next.inj ht
  exact ⟨hregs, hi, hpc, hsp, hstack, hfb, hkeypad, hdt, hst, hredraw, hfault, hfont, hzero⟩

/-- Settles O58, by evaluation of the reset state. -/
theorem resetConfigurationHoldsTheDefaults : Obligations.ResetConfigurationHoldsTheDefaults := by
  unfold Obligations.ResetConfigurationHoldsTheDefaults
  decide

end Sys2Proof.Machine
end
